-- ==== Sys2Proof/Word.lean ====
section
/-! DEFINITION. The word and the two-valued types of the block: the 16-bit command word (R77) and the level of a
line (R11). A *bit* of the spec is a `Bool`. There is no arithmetic on data to define (R112). -/

namespace Sys2Proof

/-- One command word `CW` (R77); also the packed word `OUTW` of R13. -/
abbrev Word := BitVec 16

/-- The level of a line (R11). -/
inductive Level where
  | low
  | high
deriving DecidableEq, Repr, Inhabited

end Sys2Proof
end

