-- ==== Sys2Proof/Config.lean ====
section
/-! DEFINITION. What the spec leaves to the environment (R8): the types of the pin layer's answers, and the free
values. Each free value is an opaque constant, so a claim proved of the model holds for every value of it. -/

namespace Sys2Proof

/-- The three output lines of the block (R30). The fourth line, `SDI`, is only ever read and has no register. The four
are distinct by construction (D21). -/
inductive Line where
  | clk
  | latch
  | sdo
deriving DecidableEq, Repr, Inhabited

/-- The pin layer's error type `E` (R8, R185). It is opaque to the block, which never inspects it (R187). DESIGN
CHOICE (log 7): an error is named by a number; no rule reads the number. -/
structure PinError where
  tag : Nat
deriving DecidableEq, Repr, Inhabited

/-- What the pin layer answers to one line operation (R70, parameter `PinOracle`). It always answers (R227). -/
inductive PinAnswer where
  | ok
  | err (e : PinError)
deriving DecidableEq, Repr, Inhabited

/-- `PinOracle` (R8, D16): the answer to line operation number `n` (counted from power-on), wherever the state's own
list of answers does not give it. Log 5. -/
opaque Config.pinAnswer : Nat → PinAnswer

/-- `EnvOracle` (R8, D13): the level of `SDI` at line operation number `n`, wherever the state's environment does not
give it. Log 6. -/
opaque Config.sdiLevel : Nat → Level

/-- `FailLevel` (R8, D9): the level a line is left at by the failed drive that was line operation number `n`. Log 4. -/
opaque Config.failLevel : Nat → Level

/-- Whether a chain took the failed drive of `LATCH` to high, line operation number `n`, for the rise that commits its
stages: the commit did or did not happen (R190, R223, U7). Log 14. -/
opaque Config.failedCommit : Nat → Bool

/-- `InitLevels` (R8, D10): the level of an output line before its first drive, when the power came on after line
operation number `n` (0 at the first power-on). Log 3. -/
opaque Config.initLevel : Line → Nat → Level

/-- What the cells of `OUT` hold after a `NEW` that faulted, with `n` line operations attempted by then: no driver object
exists (R39: unspecified; R141, U14). Log 2. -/
opaque Config.unownedOut : Nat → Vector Bool 16

/-- What the cells of `OUT` hold when the power comes back after a loss, with `n` line operations attempted by then (R39:
unspecified; R197). Log 2. -/
opaque Config.powerOnOut : Nat → Vector Bool 16

end Sys2Proof
end

