-- ==== Sys2Proof/Syntax.lean ====
section
/-! DEFINITION. The nineteen host commands (R76), one constructor per row of spec/opcode_table.json, and the display
variants that the pseudo-instructions name (R86, R161). -/

namespace Sys2Proof

/-- The seven segment bits `p[0..6]` of `SEG` (R76, R160). -/
abbrev Pattern := Vector Bool 7

/-- A display variant of the source (R161): `One`, `Custom(q)`, or another name of `GLYPHS`. The other names are not in
the spec (N6) and nothing depends on what they are (R163), so they are told apart by a number (log 17). -/
inductive SegmentDisplay where
  | one
  | custom (q : Pattern)
  | named (g : Nat)
deriving DecidableEq, Repr

/-- The commands of the block (R76). -/
inductive Instr where
  /-- `NEW`: construct the block (R140). -/
  | new
  /-- `D1 state` (R146). -/
  | d1 (state : Bool)
  /-- `D2 state` (R147). -/
  | d2 (state : Bool)
  /-- `D3 state` (R148). -/
  | d3 (state : Bool)
  /-- `D4 state` (R149). -/
  | d4 (state : Bool)
  /-- `D5 state` (R150). -/
  | d5 (state : Bool)
  /-- `D6 state` (R151). -/
  | d6 (state : Bool)
  /-- `D7 state` (R152). -/
  | d7 (state : Bool)
  /-- `D8 state` (R153). -/
  | d8 (state : Bool)
  /-- `D9 state` (R154): the ninth setter, a real command (C7). -/
  | d9 (state : Bool)
  /-- `SEG p` (R160). -/
  | seg (p : Pattern)
  /-- `S1` (R171). -/
  | s1
  /-- `S2` (R172). -/
  | s2
  /-- `S3` (R173). -/
  | s3
  /-- `S4` (R174). -/
  | s4
  /-- `S5` (R175). -/
  | s5
  /-- `S6` (R176). -/
  | s6
  /-- `S7` (R177). -/
  | s7
  /-- `S8` (R178). -/
  | s8
deriving DecidableEq, Repr

end Sys2Proof
end

