-- ==== Sys2Proof/WellFormed.lean ====
section
/-! DEFINITION. Well-formedness of a command, as the field rules of R77 and the list of reserved words of R81 give it.
A command as syntax cannot be out of range ("unrepresentable by construction", R57), so the checks are about the four
fields of a command word, and an instruction is well-formed when the fields that R77 gives it pass them. The decoder
(`Decode.lean`) works from the table of R78 instead; that the two agree is an obligation. -/

namespace Sys2Proof

/-- Why a command word is reserved (R81). -/
inductive Reserved where
  /-- `op` in 4..15. -/
  | opcode
  /-- `idx` outside the values `op` allows. -/
  | index
  /-- bit 7 set. -/
  | zeroBit
  /-- a bit of `arg` set that `op` wants 0. -/
  | argument
deriving DecidableEq, Repr

/-- The four fields of `CW16` (R77). -/
structure Fields where
  op  : BitVec 4
  idx : BitVec 4
  z   : BitVec 1
  arg : BitVec 7
deriving DecidableEq, Repr

/-- The fields of a word: bits 15..12, 11..8, 7 and 6..0 (R77). -/
def Fields.ofWord (w : Word) : Fields :=
  { op := w.extractLsb' 12 4, idx := w.extractLsb' 8 4, z := w.extractLsb' 7 1, arg := w.extractLsb' 0 7 }

/-- The largest `idx` that `op` allows (R77): 0 for `NEW` and `SEG`, 8 for a setter, 7 for a getter. -/
def Fields.maxIdx (f : Fields) : BitVec 4 :=
  if f.op = 1 then 8 else if f.op = 3 then 7 else 0

/-- The largest `arg` that `op` allows (R77): one bit for a setter, seven for `SEG`, none otherwise. -/
def Fields.maxArg (f : Fields) : BitVec 7 :=
  if f.op = 1 then 1 else if f.op = 2 then 127 else 0

/-- The first field rule of R77 that the fields break, if any. -/
def Fields.problem (f : Fields) : Option Reserved :=
  if 4 ≤ f.op then some .opcode
  else if f.maxIdx < f.idx then some .index
  else if f.z ≠ 0 then some .zeroBit
  else if f.maxArg < f.arg then some .argument
  else none

/-- The fields break no rule of R77. -/
def Fields.wellFormed (f : Fields) : Bool := f.problem.isNone

/-- The number that the seven bits of a pattern make, `p[0]` the least significant (`PW`, R13). -/
def Pattern.number (p : Pattern) : Nat :=
  p[0].toNat + 2 * p[1].toNat + 4 * p[2].toNat + 8 * p[3].toNat + 16 * p[4].toNat + 32 * p[5].toNat + 64 * p[6].toNat

/-- The fields of an indicator setter (R77): `op` = 1, `idx` = k-1, `arg` = `state`. -/
def Fields.setter (idx : BitVec 4) (state : Bool) : Fields :=
  { op := 1, idx := idx, z := 0, arg := if state then 1 else 0 }

/-- The fields of a button getter (R77): `op` = 3, `idx` = k-1. -/
def Fields.getter (idx : BitVec 4) : Fields := { op := 3, idx := idx, z := 0, arg := 0 }

/-- The fields R77 gives each command. -/
def Instr.fields : Instr → Fields
  | .new => { op := 0, idx := 0, z := 0, arg := 0 }
  | .d1 b => .setter 0 b
  | .d2 b => .setter 1 b
  | .d3 b => .setter 2 b
  | .d4 b => .setter 3 b
  | .d5 b => .setter 4 b
  | .d6 b => .setter 5 b
  | .d7 b => .setter 6 b
  | .d8 b => .setter 7 b
  | .d9 b => .setter 8 b
  | .seg p => { op := 2, idx := 0, z := 0, arg := BitVec.ofNat 7 p.number }
  | .s1 => .getter 0
  | .s2 => .getter 1
  | .s3 => .getter 2
  | .s4 => .getter 3
  | .s5 => .getter 4
  | .s6 => .getter 5
  | .s7 => .getter 6
  | .s8 => .getter 7

/-- A command is well-formed when its fields are. -/
def Instr.wellFormed (i : Instr) : Bool := i.fields.wellFormed

end Sys2Proof
end

