-- ==== Sys2Proof/Machine/State.lean ====
section
/-! DEFINITION. The state of the machine: the tuple of R20, and beside it the other agents of R10 (the host, the pin
layer, the environment) as plain data, with the record by which a run is judged (R38). -/

namespace Sys2Proof.Machine

/-- What an output line register `LVL[L]` holds (R31): the level last successfully driven, or "unspecified", which is
one of two cases. In both of them the line is low or high and nothing says which. -/
inductive LineLevel where
  /-- The line was last driven to `v`, successfully. -/
  | driven (v : Level)
  /-- Unspecified: not driven since the power came on after line operation number `op`. The level is `InitLevels`,
  `Config.initLevel` of the line and that number. -/
  | initial (op : Nat)
  /-- Unspecified: line operation number `op` was a drive of this line and failed. The level is `FailLevel`,
  `Config.failLevel op`. -/
  | failed (op : Nat)
deriving DecidableEq, Repr

/-- The sequencer position `SEQ` (R33). -/
inductive Seq where
  | idle
  | pos (n : Fin 58)
deriving DecidableEq, Repr

/-- The result of the last command, `RES` (R36, R84). -/
inductive Res where
  | none
  | ok
  | okBit (b : Bool)
  | err (e : PinError)
deriving DecidableEq, Repr

/-- One token of the trace (R15): `L-`, `L+`, `C-`, `C+`, `D0`, `D1` are `drove` of the line and the level, `R0` and `R1`
are `read`, `F<n>` is `fault` with the sequencer position. -/
inductive Token where
  | drove (L : Line) (v : Level)
  | read (b : Bool)
  | fault (seq : Seq)
deriving DecidableEq, Repr

/-- The environment: what is attached to the four lines (R8 `EnvOracle`, R204). Nothing about the block assumes any of
them. -/
inductive Environment where
  /-- Any level at each read: first the levels listed, then `Config.sdiLevel` (D13). -/
  | oracle (levels : List Level)
  /-- `ENV-CONST(b)`. -/
  | const (b : Level)
  /-- `ENV-BUTTONS(B)` with its read counter `k`. -/
  | buttons (B : Vector Bool 8) (k : Nat)
  /-- `ENV-LOOP(d)`: the `d` stages `st[0..d-1]`. -/
  | loop (st : List Bool)
  /-- `ENV-CHAIN16`: the shift stages `SR` and the output latches `PAR`. -/
  | chain16 (sr par : Vector Bool 16)
deriving DecidableEq, Repr

/-- The state. The first eight fields are the tuple of R20; the other five are the model's own. -/
structure State where
  /-- `OUT[0..15]` (R21). -/
  out : Vector Bool 16
  /-- `IN[0..7]`, each possibly "no value" (R27, R28). -/
  input : Vector (Option Bool) 8
  /-- `LVL[CLK]` (R31). -/
  lvlClk : LineLevel
  /-- `LVL[LATCH]` (R31). -/
  lvlLatch : LineLevel
  /-- `LVL[SDO]` (R31). -/
  lvlSdo : LineLevel
  /-- `SEQ` (R33). -/
  seq : Seq
  /-- `INIT` (R35). -/
  init : Bool
  /-- `RES` (R36). -/
  res : Res
  /-- The host (R10): the command words it will issue, in order, each after the previous result (R225). -/
  host : List Word
  /-- The pin layer (R10, `PinOracle`): its answers to the next line operations; past the end of the list the answers
  are free (`Config.pinAnswer`). -/
  pins : List PinAnswer
  /-- The environment (R10, `EnvOracle`). -/
  env : Environment
  /-- How many line operations have been attempted since power-on. It only numbers the free values. -/
  ops : Nat
  /-- The trace (R15, R61c): every line operation since power-on, oldest first. The block never reads it (R38). -/
  trace : List Token
deriving DecidableEq, Repr

/-- The reasons a step can stop with a fault: there are none. The one exception of the block, `PinFault(e)` (R185), ends
a command and not the machine (R192), so it is taken as a next state; and the pin layer always answers (R227). -/
inductive Fault where
deriving DecidableEq, Repr

/-- The reasons the model refuses. All but the first are the spec's own refusals: no line operation, no state change,
no result, and no meaning for the run from there (R81). -/
inductive Refusal where
  /-- Raised by an arm of `exec` whose instruction has no meaning yet. Safe: nothing can be proved of it. No arm raises
  it now. -/
  | notModelled (mnemonic : String)
  /-- Raised by every meaning but that of `NEW` when `INIT` is false (R35, D5). Safe: the spec refuses it too. -/
  | notConstructed
  /-- Raised by every meaning when `SEQ` is not `IDLE` (R225, U5): a command during a cycle. Safe: no run reaches it. -/
  | cycleInProgress
  /-- Raised by `step` on a reserved command word (R81, D7), with the field that makes it so. Safe. -/
  | reservedWord (why : Reserved)
  /-- Raised by `launch` when two of the four roles have the same pin (R214, U1). Safe. -/
  | aliasedPins
deriving DecidableEq, Repr

/-- `IN` with no value in any cell (R28). -/
def noSamples : Vector (Option Bool) 8 :=
  #v[none, none, none, none, none, none, none, none]

/-- All sixteen outputs off. -/
def allOff : Vector Bool 16 :=
  #v[false, false, false, false, false, false, false, false, false, false, false, false, false, false, false, false]

/-- Power-on (R39, R210), with an idle host and nothing fixed about the pin layer and the environment. The spec leaves
`OUT` unspecified there; `allOff` is a DESIGN CHOICE (log 1), unread while `INIT` is false. -/
def State.reset : State :=
  { out := allOff, input := noSamples, lvlClk := .initial 0, lvlLatch := .initial 0, lvlSdo := .initial 0,
    seq := .idle, init := false, res := .none,
    host := [], pins := [], env := .oracle [], ops := 0, trace := [] }

end Sys2Proof.Machine
end

