-- ==== Sys2Proof/Machine/Operands.lean ====
section
/-! DEFINITION. Operands and the small maps between them: bits and levels (R11), the cells a setter, the segment setter
and a getter name (R79, R155, R182), the packed words (R13), and the resolver of display variants (R161). -/

namespace Sys2Proof.Machine

/-- `lv(b)`: the level `SDO` is driven to for a bit (R11, D3). -/
def lv (b : Bool) : Level := if b then .high else .low

/-- `bit(l)`: the bit a level of `SDI` reads as (R11). -/
def bit (l : Level) : Bool := l == .high

/-- `OUT` after a write of one cell (R145). -/
def writeCell (out : Vector Bool 16) (i : Fin 16) (v : Bool) : Vector Bool 16 := out.set i v

/-- `OUT` after the write of `SEG`: `OUT[8+j] <- p[j]` for j = 0..6 (R160). -/
def writeSegments (out : Vector Bool 16) (p : Pattern) : Vector Bool 16 :=
  #v[out[0], out[1], out[2], out[3], out[4], out[5], out[6], out[7],
     p[0], p[1], p[2], p[3], p[4], p[5], p[6], out[15]]

/-- The result a getter hands back for its cell of `IN` (R170). A cell without a value gives no result; after a
complete cycle every cell has one (log 13). -/
def resultOf : Option Bool → Res
  | some b => .okBit b
  | none => .none

/-- The number that bits make, the first the least significant (R13). -/
def packBits : List Bool → Nat
  | [] => 0
  | b :: rest => b.toNat + 2 * packBits rest

/-- `OUTW`: `OUTW bits[i:i] = OUT[i]` (R13). -/
def State.outW (s : State) : Word := BitVec.ofNat 16 (packBits s.out.toList)

/-- The resolver (R161): the pattern a display variant stands for. -/
def resolve : SegmentDisplay → Pattern
  | .one => #v[false, false, false, false, true, true, false]
  | .custom q => q
  | .named _ => #v[false, false, false, false, false, false, false]

/-- A pseudo-instruction is one `SEG` with the resolved pattern (R86, R165). -/
def expandDisplay (v : SegmentDisplay) : Instr := .seg (resolve v)

end Sys2Proof.Machine
end

