-- ==== Sys2Proof/Machine/Environment.lean ====
section
/-! DEFINITION. The environment: how each of the reference environments of R204 reacts to a line operation and what
it presents on `SDI`; and the oracle, which reacts to nothing and presents anything (D13). -/

namespace Sys2Proof.Machine

/-- The level a line register stands for. Where it is unspecified the level is a free value (R31). -/
def LineLevel.level (L : Line) : LineLevel → Level
  | .driven v => v
  | .initial op => Config.initLevel L op
  | .failed op => Config.failLevel op

/-- The line register is unspecified (R31). -/
def LineLevel.isUnspecified : LineLevel → Bool
  | .driven _ => false
  | .initial _ => true
  | .failed _ => true

/-- `st[m] <- st[m-1]` for m = d-1 down to 1, then `st[0] <- b` (R204, `ENV-LOOP`). With no stage nothing happens. -/
def shiftStages (b : Bool) : List Bool → List Bool
  | [] => []
  | x :: rest => b :: (x :: rest).dropLast

/-- `SR[m] <- SR[m-1]` for m = 15 down to 1, then `SR[0] <- b` (R204, `ENV-CHAIN16`). -/
def shiftChain (b : Bool) (sr : Vector Bool 16) : Vector Bool 16 :=
  #v[b, sr[0], sr[1], sr[2], sr[3], sr[4], sr[5], sr[6], sr[7], sr[8], sr[9], sr[10], sr[11], sr[12], sr[13], sr[14]]

/-- A rising edge of `CLK`, with `SDO` at level `sdo` (R204). -/
def Environment.onClkRise (sdo : Level) : Environment → Environment
  | .oracle levels => .oracle levels
  | .const b => .const b
  | .buttons B k => .buttons B k
  | .loop st => .loop (shiftStages (bit sdo) st)
  | .chain16 sr par => .chain16 (shiftChain (bit sdo) sr) par

/-- A rising edge of `LATCH` (R204): `ENV-CHAIN16` copies its stages to its outputs. -/
def Environment.onLatchRise : Environment → Environment
  | .oracle levels => .oracle levels
  | .const b => .const b
  | .buttons B k => .buttons B k
  | .loop st => .loop st
  | .chain16 sr _ => .chain16 sr sr

/-- A successful drive of `LATCH` to low (R204): `ENV-BUTTONS` sets its read counter to 0. -/
def Environment.onLatchLow : Environment → Environment
  | .oracle levels => .oracle levels
  | .const b => .const b
  | .buttons B _ => .buttons B 0
  | .loop st => .loop st
  | .chain16 sr par => .chain16 sr par

/-- The environment sees a successful drive of line `L` to `v`; `before` is the level `L` had, `sdo` the level of `SDO`.
A drive to high of a line that was low is a rising edge (R15). -/
def Environment.onDrive (L : Line) (v before sdo : Level) (env : Environment) : Environment :=
  match L, v, before with
  | .clk, .high, .low => env.onClkRise sdo
  | .clk, .high, .high => env
  | .clk, .low, _ => env
  | .latch, .high, .low => env.onLatchRise
  | .latch, .high, .high => env
  | .latch, .low, _ => env.onLatchLow
  | .sdo, _, _ => env

/-- The environment after a drive of line `L` to `v` that failed as line operation number `op`; `before` is the level `L`
had. A failed drive is no edge (R15, T21), but one: where `LATCH` was to rise the commit is in doubt (R190, R223), so
whether the environment took it for a rise is free (log 14). -/
def Environment.onFailedDrive (L : Line) (v before : Level) (op : Nat) (env : Environment) : Environment :=
  match L, v, before with
  | .latch, .high, .low => if Config.failedCommit op then env.onLatchRise else env
  | .latch, .high, .high => env
  | .latch, .low, _ => env
  | .clk, _, _ => env
  | .sdo, _, _ => env

/-- The level the environment presents on `SDI` now, at line operation number `op` (R204, D13). A read of `ENV-BUTTONS`
past its eighth in one cycle, which no cycle makes, is free (log 15). -/
def Environment.level (op : Nat) (sdo : Level) : Environment → Level
  | .oracle levels => levels.headD (Config.sdiLevel op)
  | .const b => b
  | .buttons B k => if h : k < 8 then lv B[k] else Config.sdiLevel op
  | .loop st => (st.getLast?).elim sdo lv
  | .chain16 _ _ => .low

/-- The environment after a successful read of `SDI` (R204). -/
def Environment.afterRead : Environment → Environment
  | .oracle levels => .oracle levels.tail
  | .const b => .const b
  | .buttons B k => .buttons B (k + 1)
  | .loop st => .loop st
  | .chain16 sr par => .chain16 sr par

end Sys2Proof.Machine
end

