-- ==== Sys2Proof/Machine/Ops.lean ====
section
/-! DEFINITION. The named operations on the state, the two line operations `drive` (R101) and `sample` (R102), and
taking the one exception, `raise PinFault(e)` (R188). There is no return from it (R192) and no memory (R50). -/

namespace Sys2Proof.Machine

/-- `LVL[L]`. -/
def State.lvl (s : State) : Line → LineLevel
  | .clk => s.lvlClk
  | .latch => s.lvlLatch
  | .sdo => s.lvlSdo

/-- `LVL[L] <- v`. -/
def State.setLvl (s : State) (L : Line) (v : LineLevel) : State :=
  match L with
  | .clk => { s with lvlClk := v }
  | .latch => { s with lvlLatch := v }
  | .sdo => { s with lvlSdo := v }

/-- `OUT <- v`. -/
def State.setOut (s : State) (v : Vector Bool 16) : State := { s with out := v }

/-- `IN <- v`, all eight cells. -/
def State.setInput (s : State) (v : Vector (Option Bool) 8) : State := { s with input := v }

/-- `IN[i] <- b`. -/
def State.setSample (s : State) (i : Fin 8) (b : Bool) : State := { s with input := s.input.set i (some b) }

/-- `SEQ <- n`. -/
def State.setSeq (s : State) (n : Seq) : State := { s with seq := n }

/-- `INIT <- b`. -/
def State.setInit (s : State) (b : Bool) : State := { s with init := b }

/-- `RES <- r`. -/
def State.setRes (s : State) (r : Res) : State := { s with res := r }

/-- The environment moves on. -/
def State.setEnv (s : State) (env : Environment) : State := { s with env := env }

/-- The commands the host has still to issue. -/
def State.setHost (s : State) (words : List Word) : State := { s with host := words }

/-- One line operation has been attempted: the pin layer's next answer is used up. -/
def State.attempted (s : State) : State := { s with pins := s.pins.tail, ops := s.ops + 1 }

/-- A token is appended to the trace. -/
def State.record (s : State) (t : Token) : State := { s with trace := s.trace ++ [t] }

/-- What the pin layer will answer to the `k`-th line operation from now, the next one being number 0 (`PinOracle`):
the state's own list says it, and past its end the answer is free. -/
def State.answerAt (s : State) (k : Nat) : PinAnswer := (s.pins[k]?).getD (Config.pinAnswer (s.ops + k))

/-- How an attempt at one or more line operations ended: all performed, or stopped by a pin fault. -/
inductive Attempt where
  | done (s : State)
  | failed (e : PinError) (s : State)
deriving DecidableEq, Repr

/-- `drive(L, v)` (R101): one line operation. On failure the line is left at an unspecified level (D9) and the trace
gets `F<SEQ>`. The environment sees a drive that succeeded; of one that failed it may have taken the commit (R223). -/
def drive (L : Line) (v : Level) (s : State) : Attempt :=
  match s.answerAt 0 with
  | .ok =>
    .done (((s.attempted.setEnv (s.env.onDrive L v ((s.lvl L).level L) (s.lvlSdo.level .sdo))).setLvl L (.driven v)).record
      (.drove L v))
  | .err e =>
    .failed e (((s.attempted.setEnv (s.env.onFailedDrive L v ((s.lvl L).level L) s.ops)).setLvl L (.failed s.ops)).record
      (.fault s.seq))

/-- `IN[i] <- sample()` (R102): one line operation on `SDI`. -/
def sample (i : Fin 8) (s : State) : Attempt :=
  match s.answerAt 0 with
  | .ok =>
    let b := bit (s.env.level s.ops (s.lvlSdo.level .sdo))
    .done (((s.attempted.setEnv s.env.afterRead).setSample i b).record (.read b))
  | .err e => .failed e (s.attempted.record (.fault s.seq))

/-- `raise PinFault(e)` (R188): the command ends. `IN` has no value, `SEQ` is idle, the host gets `Err(e)`; `OUT`
(R191) and the lines (R190) stay as they are. What a faulted `NEW` does besides is in `execNew`. -/
def raisePinFault (e : PinError) (s : State) : State :=
  ((s.setInput noSamples).setSeq .idle).setRes (.err e)

end Sys2Proof.Machine
end

