-- ==== Sys2Proof/Machine/Cycle.lean ====
section
/-! DEFINITION. The core primitive `CYCLE` (R100), the shift-and-latch cycle: the edge sequencer, the clock generator,
the latch controller and the bit-order mapper. -/

namespace Sys2Proof.Machine

/-- What the sequencer does at one position (R103): drive a line to a fixed level, drive `SDO` to `lv(OUT[i])`, or read
`SDI` into `IN[i]`. -/
inductive LineOp where
  | drive (L : Line) (v : Level)
  | data (i : Fin 16)
  | read (i : Fin 8)
deriving DecidableEq, Repr

/-- Performing one line operation. The bit-order mapper is the identity: slot `i` carries `OUT[i]` (R110). -/
def perform (op : LineOp) (s : State) : Attempt :=
  match op with
  | .drive L v => drive L v s
  | .data i => drive .sdo (lv s.out[i]) s
  | .read i => sample i s

/-- A sampling slot, i = 0..7, at positions 1+4i to 4+4i (R72, R100). -/
def samplingSlot (i : Fin 8) : List (Fin 58 × LineOp) :=
  [ (⟨1 + 4 * i, by omega⟩, .drive .clk .low),
    (⟨2 + 4 * i, by omega⟩, .data ⟨i, by omega⟩),
    (⟨3 + 4 * i, by omega⟩, .drive .clk .high),
    (⟨4 + 4 * i, by omega⟩, .read i) ]

/-- A plain slot, i = 8 + j with j = 0..7, at positions 33+3j to 35+3j (R72, R100). -/
def plainSlot (j : Fin 8) : List (Fin 58 × LineOp) :=
  [ (⟨33 + 3 * j, by omega⟩, .drive .clk .low),
    (⟨34 + 3 * j, by omega⟩, .data ⟨8 + j, by omega⟩),
    (⟨35 + 3 * j, by omega⟩, .drive .clk .high) ]

/-- The eight sampling slots, in ascending order (R53). -/
def samplingSlots : List (Fin 58 × LineOp) := [0, 1, 2, 3, 4, 5, 6, 7].flatMap samplingSlot

/-- The eight plain slots, in ascending order (R53). -/
def plainSlots : List (Fin 58 × LineOp) := [0, 1, 2, 3, 4, 5, 6, 7].flatMap plainSlot

/-- The whole cycle (R100): prologue, sixteen slots, epilogue, each line operation with its position. -/
def cyclePlan : List (Fin 58 × LineOp) :=
  (0, .drive .latch .low) :: (samplingSlots ++ (plainSlots ++ [(57, .drive .latch .high)]))

/-- The sequencer: performs the operations in order, `SEQ` at each one's position, and stops at the first that fails
(R33, R115, R189). -/
def runPlan : List (Fin 58 × LineOp) → State → Attempt
  | [], s => .done s
  | (n, op) :: rest, s =>
    match perform op (s.setSeq (.pos n)) with
    | .done t => runPlan rest t
    | .failed e t => .failed e t

/-- `CYCLE()` up to the fault or the return of `IN` (R100): the samples of the cycle stand in `IN`, and `SEQ` is idle
when all 58 operations have succeeded. -/
def cycle (s : State) : Attempt :=
  match runPlan cyclePlan (s.setInput noSamples) with
  | .done t => .done (t.setSeq .idle)
  | .failed e t => .failed e t

/-- The end of a command after its cycle: `onDone` where the cycle is complete, `onFault` after the exception has been
taken where it is not. In both cases `IN` has no value once the command has returned (R28). -/
def endCommand (onDone onFault : State → State) : Attempt → State
  | .done t => (onDone t).setInput noSamples
  | .failed e t => onFault (raisePinFault e t)

end Sys2Proof.Machine
end

