-- ==== Sys2Proof/Machine/Flags.lean ====
section
/-! DEFINITION. The block has no condition codes (R35). Its one status bit is `INIT`; this file holds the two checks made
before a command runs: that no cycle is in progress (R225) and that the block is constructed (R35, R195). -/

namespace Sys2Proof.Machine

/-- A command is accepted in any `INIT` (this is `NEW`, R142), but not during a cycle (R225). -/
def whenIdle (s : State) (run : State → State) : Host.Outcome State Fault Refusal :=
  match s.seq with
  | .idle => .next (run s)
  | .pos _ => .refused .cycleInProgress

/-- A command is accepted only in state Ready (R195): no cycle in progress, `INIT` true. Otherwise it is refused: no
line operation, no state change, no result (R35). -/
def whenReady (s : State) (run : State → State) : Host.Outcome State Fault Refusal :=
  match s.seq, s.init with
  | .idle, true => .next (run s)
  | .idle, false => .refused .notConstructed
  | .pos _, _ => .refused .cycleInProgress

end Sys2Proof.Machine
end

