-- ==== Sys2Proof/Machine/Buttons.lean ====
section
/-! DEFINITION. The button getters `S1` to `S8` (44_button_getters.md). -/

namespace Sys2Proof.Machine

/-- What a getter does once it is accepted (R170): one cycle over the unchanged `OUT`, then `RES <- OkBit(IN[i])`. -/
def cycleAndRead (i : Fin 8) (s : State) : State :=
  endCommand (fun t => t.setRes (resultOf t.input[i])) (fun t => t) (cycle s)

/-- `Sk` returns cell `i` = k-1 (R170, R182). -/
def getButton (i : Fin 8) (s : State) : Host.Outcome State Fault Refusal := whenReady s (cycleAndRead i)

/-- `S1` (R171). -/
def execS1 (s : State) : Host.Outcome State Fault Refusal := getButton 0 s

/-- `S2` (R172). -/
def execS2 (s : State) : Host.Outcome State Fault Refusal := getButton 1 s

/-- `S3` (R173). -/
def execS3 (s : State) : Host.Outcome State Fault Refusal := getButton 2 s

/-- `S4` (R174). -/
def execS4 (s : State) : Host.Outcome State Fault Refusal := getButton 3 s

/-- `S5` (R175). -/
def execS5 (s : State) : Host.Outcome State Fault Refusal := getButton 4 s

/-- `S6` (R176). -/
def execS6 (s : State) : Host.Outcome State Fault Refusal := getButton 5 s

/-- `S7` (R177). -/
def execS7 (s : State) : Host.Outcome State Fault Refusal := getButton 6 s

/-- `S8` (R178). -/
def execS8 (s : State) : Host.Outcome State Fault Refusal := getButton 7 s

end Sys2Proof.Machine
end

