-- ==== Sys2Proof/Machine/Indicators.lean ====
section
/-! DEFINITION. The indicator setters `D1` to `D9` (42_indicator_setters.md). -/

namespace Sys2Proof.Machine

/-- What a setter does once it is accepted (R145, R160): `OUT` is written before any line operation, then one cycle, then
`RES <- Ok`. If the cycle faults the write stays (R191). -/
def writeAndCycle (write : Vector Bool 16 → Vector Bool 16) (s : State) : State :=
  endCommand (fun t => t.setRes .ok) (fun t => t) (cycle (s.setOut (write s.out)))

/-- `Dk state` writes cell `i` = k-1 (R145, R155). -/
def setIndicator (i : Fin 16) (state : Bool) (s : State) : Host.Outcome State Fault Refusal :=
  whenReady s (writeAndCycle (fun out => writeCell out i state))

/-- `D1` (R146). -/
def execD1 (state : Bool) (s : State) : Host.Outcome State Fault Refusal := setIndicator 0 state s

/-- `D2` (R147). -/
def execD2 (state : Bool) (s : State) : Host.Outcome State Fault Refusal := setIndicator 1 state s

/-- `D3` (R148). -/
def execD3 (state : Bool) (s : State) : Host.Outcome State Fault Refusal := setIndicator 2 state s

/-- `D4` (R149). -/
def execD4 (state : Bool) (s : State) : Host.Outcome State Fault Refusal := setIndicator 3 state s

/-- `D5` (R150). -/
def execD5 (state : Bool) (s : State) : Host.Outcome State Fault Refusal := setIndicator 4 state s

/-- `D6` (R151). -/
def execD6 (state : Bool) (s : State) : Host.Outcome State Fault Refusal := setIndicator 5 state s

/-- `D7` (R152). -/
def execD7 (state : Bool) (s : State) : Host.Outcome State Fault Refusal := setIndicator 6 state s

/-- `D8` (R153). -/
def execD8 (state : Bool) (s : State) : Host.Outcome State Fault Refusal := setIndicator 7 state s

/-- `D9` (R154): the ninth setter writes segment bit 0, `OUT[8]`. -/
def execD9 (state : Bool) (s : State) : Host.Outcome State Fault Refusal := setIndicator 8 state s

end Sys2Proof.Machine
end

