-- ==== Sys2Proof/Machine/Init.lean ====
section
/-! DEFINITION. The construction command `NEW` (41_init.md), and the two events outside `step` that the spec describes
for the block's life: its launch on four pins (R214) and a loss of power (R197). -/

namespace Sys2Proof.Machine

/-- What a `NEW` whose cycle faulted does besides taking the exception (R141, R188): no driver object exists, so `INIT`
is false and `OUT` has no meaning any more (a free value, log 2). -/
def noDriver (s : State) : State := (s.setInit false).setOut (Config.unownedOut s.ops)

/-- `NEW` (R140): clear `OUT`, one cycle, `INIT <- true`, `RES <- Ok`. -/
def construct (s : State) : State :=
  endCommand (fun t => (t.setInit true).setRes .ok) noDriver (cycle (s.setOut allOff))

/-- `NEW` is accepted whatever `INIT` is (R142). -/
def execNew (s : State) : Host.Outcome State Fault Refusal := whenIdle s construct

/-- The launch of the block on four pins (R214): they must be distinct, and one launch with two roles on the same pin is
refused (U1, D21). The launched block is as at power-on. -/
def launch (clk latch sdo sdi : Nat) : Host.Outcome State Fault Refusal :=
  if [clk, latch, sdo, sdi].Nodup then .next State.reset else .refused .aliasedPins

/-- A loss of power (R197): nothing survives, and the block is Unconstructed as at power-on (R39). The host, the pin
layer, the environment and the record are not the block's. No step takes this event. -/
def powerCycle (s : State) : State :=
  { s with
    out := Config.powerOnOut s.ops, input := noSamples,
    lvlClk := .initial s.ops, lvlLatch := .initial s.ops, lvlSdo := .initial s.ops,
    seq := .idle, init := false, res := .none }

end Sys2Proof.Machine
end

