-- ==== Sys2Proof/Machine/Segment.lean ====
section
/-! DEFINITION. The segment-display setter `SEG` (43_segment_setter.md). -/

namespace Sys2Proof.Machine

/-- `SEG p` (R160): the seven cells `OUT[8..14]` are written before any line operation, then one cycle. -/
def execSeg (p : Pattern) (s : State) : Host.Outcome State Fault Refusal :=
  whenReady s (writeAndCycle (fun out => writeSegments out p))

end Sys2Proof.Machine
end

