-- ==== Sys2Proof/Machine/Dispatch.lean ====
section
/-! DEFINITION. `exec`: one arm per command, each one call of its meaning. -/

namespace Sys2Proof.Machine

/-- The effect of one whole command (R59: indivisible from the host's side). -/
def exec (i : Instr) (s : State) : Host.Outcome State Fault Refusal :=
  match i with
  | .new => Sys2Proof.Machine.execNew s
  | .d1 state => Sys2Proof.Machine.execD1 state s
  | .d2 state => Sys2Proof.Machine.execD2 state s
  | .d3 state => Sys2Proof.Machine.execD3 state s
  | .d4 state => Sys2Proof.Machine.execD4 state s
  | .d5 state => Sys2Proof.Machine.execD5 state s
  | .d6 state => Sys2Proof.Machine.execD6 state s
  | .d7 state => Sys2Proof.Machine.execD7 state s
  | .d8 state => Sys2Proof.Machine.execD8 state s
  | .d9 state => Sys2Proof.Machine.execD9 state s
  | .seg p => Sys2Proof.Machine.execSeg p s
  | .s1 => Sys2Proof.Machine.execS1 s
  | .s2 => Sys2Proof.Machine.execS2 s
  | .s3 => Sys2Proof.Machine.execS3 s
  | .s4 => Sys2Proof.Machine.execS4 s
  | .s5 => Sys2Proof.Machine.execS5 s
  | .s6 => Sys2Proof.Machine.execS6 s
  | .s7 => Sys2Proof.Machine.execS7 s
  | .s8 => Sys2Proof.Machine.execS8 s

end Sys2Proof.Machine
end

