-- ==== Sys2Proof/Decode.lean ====
section
/-! DEFINITION. The decoder of the command word `CW16`, written from the opcode map of R78 (match and mask), and the
encoder, written from the same table. Both are total; a word that no row of the table matches is reserved and is
rejected by name (R81). -/

namespace Sys2Proof

/-- One row of the opcode map (R78). `build` assembles the operands from the word (R79). -/
structure CommandRow where
  mnemonic : String
  pattern : Word
  mask : Word
  build : Word → Instr

/-- `w` selects the row: `(w AND mask) = match` (R78). -/
def CommandRow.selects (r : CommandRow) (w : Word) : Bool := w &&& r.mask == r.pattern

/-- `state` = `CW bits[0:0]` (R79). -/
def stateOf (w : Word) : Bool := w.getLsbD 0

/-- `p[j]` = `CW bits[j:j]`, j = 0..6 (R79). -/
def patternOf (w : Word) : Pattern :=
  #v[w.getLsbD 0, w.getLsbD 1, w.getLsbD 2, w.getLsbD 3, w.getLsbD 4, w.getLsbD 5, w.getLsbD 6]

/-- The rows of `NEW` and of the nine indicator setters (R78). -/
def setterRows : List CommandRow :=
  [ ⟨"NEW", 0x0000#16, 0xFFFF#16, fun _ => .new⟩,
    ⟨"D1", 0x1000#16, 0xFFFE#16, fun w => .d1 (stateOf w)⟩,
    ⟨"D2", 0x1100#16, 0xFFFE#16, fun w => .d2 (stateOf w)⟩,
    ⟨"D3", 0x1200#16, 0xFFFE#16, fun w => .d3 (stateOf w)⟩,
    ⟨"D4", 0x1300#16, 0xFFFE#16, fun w => .d4 (stateOf w)⟩,
    ⟨"D5", 0x1400#16, 0xFFFE#16, fun w => .d5 (stateOf w)⟩,
    ⟨"D6", 0x1500#16, 0xFFFE#16, fun w => .d6 (stateOf w)⟩,
    ⟨"D7", 0x1600#16, 0xFFFE#16, fun w => .d7 (stateOf w)⟩,
    ⟨"D8", 0x1700#16, 0xFFFE#16, fun w => .d8 (stateOf w)⟩,
    ⟨"D9", 0x1800#16, 0xFFFE#16, fun w => .d9 (stateOf w)⟩ ]

/-- The rows of the segment setter and of the eight button getters (R78). -/
def displayRows : List CommandRow :=
  [ ⟨"SEG", 0x2000#16, 0xFF80#16, fun w => .seg (patternOf w)⟩,
    ⟨"S1", 0x3000#16, 0xFFFF#16, fun _ => .s1⟩,
    ⟨"S2", 0x3100#16, 0xFFFF#16, fun _ => .s2⟩,
    ⟨"S3", 0x3200#16, 0xFFFF#16, fun _ => .s3⟩,
    ⟨"S4", 0x3300#16, 0xFFFF#16, fun _ => .s4⟩,
    ⟨"S5", 0x3400#16, 0xFFFF#16, fun _ => .s5⟩,
    ⟨"S6", 0x3500#16, 0xFFFF#16, fun _ => .s6⟩,
    ⟨"S7", 0x3600#16, 0xFFFF#16, fun _ => .s7⟩,
    ⟨"S8", 0x3700#16, 0xFFFF#16, fun _ => .s8⟩ ]

/-- The opcode map of R78, nineteen rows. -/
def commandTable : List CommandRow := setterRows ++ displayRows

/-- What a command word is. -/
inductive Decoded where
  | command (i : Instr)
  | reserved (why : Reserved)
deriving DecidableEq, Repr

/-- Which of the cases of R81 a word that matches no row falls under, tried in the order of the fields. -/
def reservedReason (w : Word) : Reserved :=
  let op := w.extractLsb' 12 4
  let idx := w.extractLsb' 8 4
  if op = 0 ∨ op = 2 then
    if idx ≠ 0 then .index else if w.getLsbD 7 then .zeroBit else .argument
  else if op = 1 then
    if 9 ≤ idx then .index else if w.getLsbD 7 then .zeroBit else .argument
  else if op = 3 then
    if 8 ≤ idx then .index else if w.getLsbD 7 then .zeroBit else .argument
  else .opcode

/-- The decoder: the row the word selects, or the reason why it is reserved (R78, R81). -/
def decode (w : Word) : Decoded :=
  match commandTable.find? (fun r => r.selects w) with
  | some r => .command (r.build w)
  | none => .reserved (reservedReason w)

/-- Bit `j` of a word set to `b`, the others 0. -/
def bitAt (j : Nat) (b : Bool) : Word := if b then 1#16 <<< j else 0#16

/-- `PW` as the low seven bits of a word (R13). -/
def patternWord (p : Pattern) : Word :=
  bitAt 0 p[0] ||| bitAt 1 p[1] ||| bitAt 2 p[2] ||| bitAt 3 p[3] ||| bitAt 4 p[4] ||| bitAt 5 p[5] ||| bitAt 6 p[6]

/-- The command word of a command (R78, R79). -/
def encode : Instr → Word
  | .new => 0x0000#16
  | .d1 b => 0x1000#16 ||| bitAt 0 b
  | .d2 b => 0x1100#16 ||| bitAt 0 b
  | .d3 b => 0x1200#16 ||| bitAt 0 b
  | .d4 b => 0x1300#16 ||| bitAt 0 b
  | .d5 b => 0x1400#16 ||| bitAt 0 b
  | .d6 b => 0x1500#16 ||| bitAt 0 b
  | .d7 b => 0x1600#16 ||| bitAt 0 b
  | .d8 b => 0x1700#16 ||| bitAt 0 b
  | .d9 b => 0x1800#16 ||| bitAt 0 b
  | .seg p => 0x2000#16 ||| patternWord p
  | .s1 => 0x3000#16
  | .s2 => 0x3100#16
  | .s3 => 0x3200#16
  | .s4 => 0x3300#16
  | .s5 => 0x3400#16
  | .s6 => 0x3500#16
  | .s7 => 0x3600#16
  | .s8 => 0x3700#16

/-- The command that the decoder reads from the `nbits` low bits of `w`, every bit above them 0. A command word is one
word of 16 bits (R77) and has no bytes, so no byte order arises (R53). -/
def decodeTableWord (nbits w : Nat) : Option Instr :=
  match decode (BitVec.ofNat 16 (w % 2 ^ nbits)) with
  | .command i => some i
  | .reserved _ => none

/-- One binary digit of the assembler syntax. -/
def digit (b : Bool) : String := if b then "1" else "0"

/-- The assembler syntax of R85: the pattern of `SEG` is written `p[6]` first after `0b`. -/
def Instr.assembly : Instr → String
  | .new => "NEW"
  | .d1 b => "D1 " ++ digit b
  | .d2 b => "D2 " ++ digit b
  | .d3 b => "D3 " ++ digit b
  | .d4 b => "D4 " ++ digit b
  | .d5 b => "D5 " ++ digit b
  | .d6 b => "D6 " ++ digit b
  | .d7 b => "D7 " ++ digit b
  | .d8 b => "D8 " ++ digit b
  | .d9 b => "D9 " ++ digit b
  | .seg p => "SEG 0b" ++ digit p[6] ++ digit p[5] ++ digit p[4] ++ digit p[3] ++ digit p[2] ++ digit p[1] ++ digit p[0]
  | .s1 => "S1"
  | .s2 => "S2"
  | .s3 => "S3"
  | .s4 => "S4"
  | .s5 => "S5"
  | .s6 => "S6"
  | .s7 => "S7"
  | .s8 => "S8"

end Sys2Proof
end

