-- ==== Sys2Proof/Machine/Port.lean ====
section
/-! DEFINITION. The host command port (D2): which command the host issues next. The block fetches no instructions
(R65); what comes next is what the host sends. -/

namespace Sys2Proof.Machine

/-- What the port holds when the block is ready to take a command. -/
inductive Issued where
  /-- The host has nothing to issue. -/
  | nothing
  /-- The host has issued a command; `s` is the state with that word taken from the port. -/
  | command (i : Instr) (s : State)
  /-- The host has sent a reserved word. -/
  | reserved (why : Reserved)
deriving DecidableEq, Repr

/-- The next command word of the host, decoded (R77, R78). -/
def nextCommand (s : State) : Issued :=
  match s.host with
  | [] => .nothing
  | w :: rest =>
    match decode w with
    | .command i => .command i (s.setHost rest)
    | .reserved why => .reserved why

/-- The host sends the word `w` before the words it was going to send. -/
def State.send (s : State) (w : Word) : State := s.setHost (w :: s.host)

end Sys2Proof.Machine
end

