-- ==== Sys2Proof/Machine/Step.lean ====
section
/-! DEFINITION. One step: the host issues its next command and the block performs all of it (R59, R61). -/

namespace Sys2Proof.Machine

/-- The host issues its next command and the block executes it. With no command the block does nothing: it performs no
line operation outside a cycle (R118) and runs nothing until the host sends a command (R210). A reserved word is
refused (R81). -/
def step (s : State) : Host.Outcome State Fault Refusal :=
  match nextCommand s with
  | .nothing => .next s
  | .command i t => exec i t
  | .reserved why => .refused (.reservedWord why)

/-- The state in which the host's next command word is `w`, of `nbits` bits with the bits above them 0 (log 9). It changes
nothing but what the host sends: in particular it does not construct the block, since only a `NEW` does (R215). -/
def State.withFetchWord (s : State) (nbits w : Nat) : State := s.send (BitVec.ofNat 16 (w % 2 ^ nbits))

end Sys2Proof.Machine
end

