-- ==== Sys2Proof/Safety.lean ====
section
/-! DEFINITION. The terms in which claims about the block are made: when a command is accepted, what the pin layer is
assumed to answer, the serial frame (R72, R74), edges (R15), what each command writes (R58), the state after a
complete cycle, sequences of commands, and the invariant that every step keeps. -/

namespace Sys2Proof

/-- The setter `D(k+1)`. -/
def indicatorSetter (k : Fin 9) (state : Bool) : Instr :=
  match k with
  | 0 => .d1 state
  | 1 => .d2 state
  | 2 => .d3 state
  | 3 => .d4 state
  | 4 => .d5 state
  | 5 => .d6 state
  | 6 => .d7 state
  | 7 => .d8 state
  | 8 => .d9 state

/-- The getter `S(k+1)`. -/
def buttonGetter (k : Fin 8) : Instr :=
  match k with
  | 0 => .s1
  | 1 => .s2
  | 2 => .s3
  | 3 => .s4
  | 4 => .s5
  | 5 => .s6
  | 6 => .s7
  | 7 => .s8

/-- The value a command writes to cell `c` of `OUT`, if it writes that cell (R22, R58). -/
def Instr.writes (i : Instr) (c : Fin 16) : Option Bool :=
  match i with
  | .new => some false
  | .d1 b => if c.val = 0 then some b else none
  | .d2 b => if c.val = 1 then some b else none
  | .d3 b => if c.val = 2 then some b else none
  | .d4 b => if c.val = 3 then some b else none
  | .d5 b => if c.val = 4 then some b else none
  | .d6 b => if c.val = 5 then some b else none
  | .d7 b => if c.val = 6 then some b else none
  | .d8 b => if c.val = 7 then some b else none
  | .d9 b => if c.val = 8 then some b else none
  | .seg p => if h : 8 ≤ c.val ∧ c.val ≤ 14 then some (p[c.val - 8]'(by omega)) else none
  | .s1 | .s2 | .s3 | .s4 | .s5 | .s6 | .s7 | .s8 => none

/-- The value the last command of a list that writes cell `c` writes to it (R62, R156). -/
def lastWrite (c : Fin 16) : List Instr → Option Bool
  | [] => none
  | i :: rest => (lastWrite c rest).or (i.writes c)

namespace Machine

/-- No cycle in progress and the block constructed: all nineteen commands are accepted (R195). -/
abbrev State.Ready (s : State) : Prop := s.seq = .idle ∧ s.init = true

/-- The command is accepted (R195, R142): no cycle in progress, and the block constructed unless the command is `NEW`. -/
abbrev State.Accepts (s : State) (i : Instr) : Prop := s.seq = .idle ∧ (i = .new ∨ s.init = true)

/-- The pin layer answers `Ok` to the next 58 line operations: the next cycle succeeds. -/
abbrev State.NoPinFault (s : State) : Prop := ∀ k, k < 58 → s.answerAt k = .ok

/-- In the next cycle the line operation at position `n` is the first to fail, with error `e` (R188, R189). -/
abbrev State.FaultAt (s : State) (n : Fin 58) (e : PinError) : Prop :=
  (∀ k, k < n.val → s.answerAt k = .ok) ∧ s.answerAt n.val = .err e

/-- The tokens of slot `i`, i = 0..7, sending bit `d` and reading bit `r` (R73). -/
def samplingTokens (d r : Bool) : List Token :=
  [.drove .clk .low, .drove .sdo (lv d), .drove .clk .high, .read r]

/-- The tokens of slot `i`, i = 8..15, sending bit `d` (R73). -/
def plainTokens (d : Bool) : List Token := [.drove .clk .low, .drove .sdo (lv d), .drove .clk .high]

/-- The serial frame (R72, R74): the 58 tokens of a successful cycle that sends `out` and reads `ins`. -/
def frame (out : Vector Bool 16) (ins : Vector Bool 8) : List Token :=
  [.drove .latch .low]
    ++ samplingTokens out[0] ins[0] ++ samplingTokens out[1] ins[1] ++ samplingTokens out[2] ins[2]
    ++ samplingTokens out[3] ins[3] ++ samplingTokens out[4] ins[4] ++ samplingTokens out[5] ins[5]
    ++ samplingTokens out[6] ins[6] ++ samplingTokens out[7] ins[7]
    ++ plainTokens out[8] ++ plainTokens out[9] ++ plainTokens out[10] ++ plainTokens out[11]
    ++ plainTokens out[12] ++ plainTokens out[13] ++ plainTokens out[14] ++ plainTokens out[15]
    ++ [.drove .latch .high]

/-- The position at which slot `i` drives `SDO` (R103): 2+4i for the sampling slots, 34+3(i-8) for the plain ones. -/
def dataPosition (i : Fin 16) : Nat := if i.val < 8 then 2 + 4 * i.val else 34 + 3 * (i.val - 8)

/-- The position at which slot `i` reads `SDI` (R103). -/
def readPosition (i : Fin 8) : Nat := 4 + 4 * i.val

/-- What line register `L` holds after the successful line operations of a trace, `old` before it (R31). -/
def levelAfter (L : Line) : LineLevel → List Token → LineLevel
  | old, [] => old
  | old, .drove K v :: rest => levelAfter L (if K = L then .driven v else old) rest
  | old, .read _ :: rest => levelAfter L old rest
  | old, .fault _ :: rest => levelAfter L old rest

/-- How often line `L` goes from level `a` to level `b` in a trace that finds it at `now` (R15). With `a` low and `b` high
these are the rising edges, the other way round the falling ones. -/
def edges (L : Line) (a b : Level) : Level → List Token → Nat
  | _, [] => 0
  | now, .drove K v :: rest =>
    if K = L then (if now = a ∧ v = b then 1 else 0) + edges L a b v rest else edges L a b now rest
  | now, .read _ :: rest => edges L a b now rest
  | now, .fault _ :: rest => edges L a b now rest

/-- The levels line `L` is driven to in a trace, in order. -/
def drivesOf (L : Line) : List Token → List Level
  | [] => []
  | .drove K v :: rest => if K = L then v :: drivesOf L rest else drivesOf L rest
  | .read _ :: rest => drivesOf L rest
  | .fault _ :: rest => drivesOf L rest

/-- The bits read in a trace, in order. -/
def readsOf : List Token → List Bool
  | [] => []
  | .read b :: rest => b :: readsOf rest
  | .drove _ _ :: rest => readsOf rest
  | .fault _ :: rest => readsOf rest

/-- The state after a complete cycle over `s` (R111) whose reads gave `ins` and which left the environment at `env`: the
58 line operations are in the trace, the lines are at rest, and `IN` has no value. Everything else is as in `s`. -/
def State.afterCycle (s : State) (ins : Vector Bool 8) (env : Environment) : State :=
  { s with
    lvlClk := .driven .high, lvlLatch := .driven .high, lvlSdo := .driven (lv s.out[15]),
    input := noSamples, pins := s.pins.drop 58, ops := s.ops + 58, env := env,
    trace := s.trace ++ frame s.out ins }

/-- The block executes the commands of a list one after the other (R61a), stopping at a refusal. -/
def runCommands : List Instr → State → Host.Outcome State Fault Refusal
  | [], s => .next s
  | i :: rest, s =>
    match exec i s with
    | .next t => runCommands rest t
    | .fault r => .fault r
    | .refused r => .refused r

/-- What holds of the block between commands, after every step from power-on. -/
structure State.Inv (s : State) : Prop where
  /-- No cycle is in progress (R33, R59). -/
  idle : s.seq = .idle
  /-- No sample is kept (R28). -/
  noSample : s.input = noSamples
  /-- `OUT[15]` is false while the block is constructed (R23). -/
  reservedCell : s.init = true → s.out[15] = false
  /-- A constructed block has handed back a result (R36, R35). -/
  resulted : s.init = true → s.res ≠ .none
  /-- After a success the block is constructed and the lines rest high, high, low (R212). -/
  atRest : s.res = .ok ∨ (∃ b, s.res = .okBit b) →
    s.init = true ∧ s.lvlClk = .driven .high ∧ s.lvlLatch = .driven .high ∧ s.lvlSdo = .driven .low
  /-- After a fault `LATCH` is low or unspecified (R190). -/
  afterFault : ∀ e, s.res = .err e → s.lvlLatch = .driven .low ∨ s.lvlLatch.isUnspecified = true
  /-- Every line operation attempted is in the trace, once (R71, R61c). -/
  counted : s.trace.length = s.ops
  /-- A line is left unspecified only by a drive that has been attempted (R31). -/
  drawn : ∀ L n, s.lvl L = .failed n → n < s.ops

end Machine

end Sys2Proof
end

