-- ==== Sys2Proof/Certificates/Slice0/Obligations.lean ====
section
/-! DEFINITION. The statements for the provers, from the numbered rules of spec/. A statement names the commands it is
about; `exec i s = .next t` in a conclusion says that the command completes. -/

open Sys2Proof Sys2Proof.Machine

/-! ### Encoding -/

/-- Every command is read back from its own word, with every operand at every value (R78, R79). -/
def Obligations.DecodeEncodeAgree : Prop := ∀ i : Instr, decode (encode i) = .command i

/-- Every word that decodes to a command is the word of that command: no two words mean the same (R78). -/
def Obligations.EncodeDecodeAgree : Prop := ∀ (w : Word) (i : Instr), decode w = .command i → encode i = w

/-- The words that the opcode map of R78 leaves out are exactly the words that break a field rule of R77, and the
decoder names the field. -/
def Obligations.ReservedWordsBreakFieldRules : Prop :=
  ∀ (w : Word) (why : Reserved), decode w = .reserved why ↔ (Fields.ofWord w).problem = some why

/-- At most one row of the opcode map matches a word (R78). -/
def Obligations.OpcodeRowsDisjoint : Prop :=
  ∀ w : Word, ∀ r ∈ commandTable, ∀ q ∈ commandTable,
    r.selects w = true → q.selects w = true → r.mnemonic = q.mnemonic

/-- Words written out from R77 and R78, and reserved words of R81 (vectors T6 to T8). -/
def Obligations.SpecWordsDecode : Prop :=
  decode 0b0000_0000_0_0000000 = .command .new
  ∧ decode 0b0001_0000_0_0000001 = .command (.d1 true)
  ∧ decode 0b0001_1000_0_0000000 = .command (.d9 false)
  ∧ decode 0b0010_0000_0_0110000 = .command (.seg #v[false, false, false, false, true, true, false])
  ∧ decode 0b0010_0000_0_0000001 = .command (.seg #v[true, false, false, false, false, false, false])
  ∧ decode 0b0011_0111_0_0000000 = .command .s8
  ∧ decode 0b0010_0000_1_0000000 = .reserved .zeroBit
  ∧ decode 0b0010_0001_0_0110000 = .reserved .index
  ∧ decode 0b0011_1000_0_0000000 = .reserved .index
  ∧ decode 0b0011_0000_0_0000001 = .reserved .argument
  ∧ decode 0b0100_0000_0_0000000 = .reserved .opcode

/-! ### Steps -/

/-- A step runs the decoded command: when the host's next word decodes to `i`, the step is `exec i` on the state with that
word taken from the port. That one step is one whole command, and that the host's words stand in a list, is the model's
choice (log 8, log 9). -/
def Obligations.StepRunsDecodedCommand : Prop :=
  ∀ (s : State) (w : Word) (rest : List Word) (i : Instr),
    s.host = w :: rest → decode w = .command i → step s = exec i { s with host := rest }

/-- A reserved word is refused, with its reason (R81). That a refusal ends the run, and the names of the reasons, are the
model's choice (log 10). -/
def Obligations.StepRefusesReservedWord : Prop :=
  ∀ (s : State) (w : Word) (rest : List Word) (why : Reserved),
    s.host = w :: rest → decode w = .reserved why → step s = .refused (.reservedWord why)

/-- With no command from the host the block does nothing: no line operation, no state change (R118, R210).
That such a step answers the same state is the model's choice (log 9). -/
def Obligations.StepWithoutCommandIdles : Prop := ∀ s : State, s.host = [] → step s = .next s

/-- The word that `withFetchWord` places is the next command the step runs, and nothing else has changed (the
model's choice, log 9). -/
def Obligations.FetchWordRunsNext : Prop :=
  ∀ (s : State) (w : Nat) (i : Instr), w < 2 ^ 16 → decodeTableWord 16 w = some i →
    step (s.withFetchWord 16 w) = exec i s

/-- A step is refused for three reasons only, and each exactly when the spec refuses (R81, R225, R35); the names
of the reasons are the model's (log 10). -/
def Obligations.RefusalsAreTheSpecs : Prop :=
  ∀ (s : State) (r : Refusal), step s = .refused r ↔ ∃ w rest, s.host = w :: rest ∧
    ((∃ why, decode w = .reserved why ∧ r = .reservedWord why)
      ∨ (∃ i n, decode w = .command i ∧ s.seq = .pos n ∧ r = .cycleInProgress)
      ∨ (∃ i, decode w = .command i ∧ i ≠ .new ∧ s.seq = .idle ∧ s.init = false ∧ r = .notConstructed))

/-- From power-on until a `NEW` completes, and after a `NEW` that faults, every other command is refused; no other
command changes `INIT` (R35). -/
def Obligations.RefusedUntilConstructed : Prop :=
  State.reset.init = false
  ∧ (∀ s t : State, exec .new s = .next t → s.NoPinFault → t.init = true)
  ∧ (∀ (s t : State) (n : Fin 58) (e : PinError), exec .new s = .next t → s.FaultAt n e → t.init = false)
  ∧ (∀ (i : Instr) (s t : State), i ≠ .new → exec i s = .next t → t.init = s.init)
  ∧ (∀ (i : Instr) (s : State), i ≠ .new → s.seq = .idle → s.init = false → exec i s = .refused .notConstructed)

/-- A command during a cycle is refused (R225; under a name of the model's, log 10). -/
def Obligations.RefusedDuringCycle : Prop :=
  ∀ (i : Instr) (s : State) (n : Fin 58), s.seq = .pos n → exec i s = .refused .cycleInProgress

/-! ### The commands -/

/-- `NEW` (R140, R142, R143): whatever `INIT` is and whatever the lines are at, it clears `OUT`, runs one cycle, sets
`INIT` and answers `Ok`; it answers the pin layer's error if the cycle faults, and then `INIT` is false. The whole next
state is given, so everything else is unchanged. -/
def Obligations.NewConstructs : Prop :=
  encode .new = 0x0000 ∧
  ∀ s : State, s.seq = .idle →
    (s.NoPinFault → ∃ (ins : Vector Bool 8) (env : Environment),
      exec .new s = .next { ({ s with out := allOff }).afterCycle ins env with init := true, res := .ok }
      ∧ (s.env = .const .low → ∀ k : Fin 8, ins[k] = false))
    ∧ ∀ (n : Fin 58) (e : PinError), s.FaultAt n e →
      ∃ t, exec .new s = .next t ∧ t.res = .err e ∧ t.init = false

/-- A `NEW` whose cycle faults leaves no driver: the error is handed back, every other command is refused, and `NEW` may
be issued again (R141). -/
def Obligations.FailedNewLeavesNoDriver : Prop :=
  ∀ (s : State) (n : Fin 58) (e : PinError), s.seq = .idle → s.FaultAt n e →
    ∃ t, exec .new s = .next t ∧ t.res = .err e ∧ t.init = false
      ∧ (∀ i, i ≠ .new → exec i t = .refused .notConstructed) ∧ ∃ u, exec .new t = .next u

/-- The setters `D1` to `D9` (R145 to R153): the word, the one cell written before the cycle, the frame that sends it in
its slot, `RES`; the write stays if the cycle faults; refused while `INIT` is false. -/
def Obligations.SettersWriteAndCycle : Prop :=
  ∀ (k : Fin 9) (b : Bool) (s : State),
    (encode (indicatorSetter k b)).toNat = 0x1000 + 0x100 * k.val + b.toNat
    ∧ (s.Ready → s.NoPinFault → ∃ (ins : Vector Bool 8) (env : Environment),
        exec (indicatorSetter k b) s = .next { ({ s with out := s.out.set k b }).afterCycle ins env with res := .ok }
        ∧ (frame (s.out.set k b) ins)[dataPosition ⟨k, by omega⟩]? = some (.drove .sdo (lv b)))
    ∧ (s.Ready → ∀ (n : Fin 58) (e : PinError), s.FaultAt n e →
        ∃ t, exec (indicatorSetter k b) s = .next t ∧ t.res = .err e ∧ t.out = s.out.set k b ∧ t.init = true)
    ∧ (s.seq = .idle → s.init = false → exec (indicatorSetter k b) s = .refused .notConstructed)

/-- `SEG p` (R160): the word, the seven cells written before the cycle and no other, `RES`; the writes stay if the cycle
faults; refused while `INIT` is false; and the example `SEG.ONE` after `NEW`. -/
def Obligations.SegWritesAndCycles : Prop :=
  ∀ (p : Pattern) (s : State),
    let out : Vector Bool 16 := #v[s.out[0], s.out[1], s.out[2], s.out[3], s.out[4], s.out[5], s.out[6], s.out[7],
      p[0], p[1], p[2], p[3], p[4], p[5], p[6], s.out[15]]
    (encode (.seg p)).toNat = 0x2000 + p.number
    ∧ (s.Ready → s.NoPinFault → ∃ (ins : Vector Bool 8) (env : Environment),
        exec (.seg p) s = .next { ({ s with out := out }).afterCycle ins env with res := .ok }
        ∧ (s.out = allOff → p = #v[false, false, false, false, true, true, false] →
            ({ s with out := out }).outW = 0x3000
            ∧ ∀ c : Fin 16, (frame out ins)[dataPosition c]? = some (.drove .sdo (if c = 12 ∨ c = 13 then .high else .low))))
    ∧ (s.Ready → ∀ (n : Fin 58) (e : PinError), s.FaultAt n e →
        ∃ t, exec (.seg p) s = .next t ∧ t.res = .err e ∧ t.out = out ∧ t.init = true)
    ∧ (s.seq = .idle → s.init = false → exec (.seg p) s = .refused .notConstructed)

/-- The getters `S1` to `S8` (R170 to R179, R181): the word, one cycle that sends the unchanged `OUT`, the one sample
returned; no bit is returned if the cycle faults, and `OUT` is as before; refused while `INIT` is false; and, with the
buttons of R204 attached, the bit is that button's. -/
def Obligations.GettersReturnTheirSample : Prop :=
  ∀ (k : Fin 8) (s : State),
    (encode (buttonGetter k)).toNat = 0x3000 + 0x100 * k.val
    ∧ (s.Ready → s.NoPinFault → ∃ (ins : Vector Bool 8) (env : Environment),
        exec (buttonGetter k) s = .next { s.afterCycle ins env with res := .okBit ins[k] }
        ∧ (frame s.out ins)[readPosition k]? = some (.read ins[k])
        ∧ ∀ (B : Vector Bool 8) (m : Nat), s.env = .buttons B m → ins = B)
    ∧ (s.Ready → ∀ (n : Fin 58) (e : PinError), s.FaultAt n e →
        ∃ t, exec (buttonGetter k) s = .next t ∧ t.res = .err e ∧ t.out = s.out ∧ t.init = true)
    ∧ (s.seq = .idle → s.init = false → exec (buttonGetter k) s = .refused .notConstructed)

/-- What every command leaves unchanged, faulted or not: the host's words; `INIT` and the cells of `OUT` it does not
write, unless it is `NEW`; `IN` has no value afterwards and `SEQ` is idle; the trace only grows, by one token per line
operation attempted, at least one and at most 58. -/
def Obligations.CommandFrame : Prop :=
  ∀ (i : Instr) (s t : State), exec i s = .next t →
    t.host = s.host ∧ t.input = noSamples ∧ t.seq = .idle
    ∧ (i ≠ .new → t.init = s.init ∧ ∀ c : Fin 16, t.out[c] = (i.writes c).getD s.out[c])
    ∧ s.ops < t.ops ∧ t.ops ≤ s.ops + 58 ∧ t.pins = s.pins.drop (t.ops - s.ops)
    ∧ ∃ toks, t.trace = s.trace ++ toks ∧ toks.length = t.ops - s.ops

/-- The samples of a cycle do not affect `NEW`, a setter or `SEG` (R116, T2): with another environment attached they
leave the block in the same state. -/
def Obligations.WritersIgnoreSamples : Prop :=
  ∀ (i : Instr) (s t : State) (env : Environment), (∀ k, i ≠ buttonGetter k) → exec i s = .next t →
    ∃ (env' : Environment) (trace' : List Token),
      exec i { s with env := env } = .next { t with env := env', trace := trace' }

/-- A read takes the level the environment presents, high as true (R11, R102): with the oracle at the given levels, each
getter returns the bit of its own level, and the oracle has gone on by eight. The list of levels is the
model's form of `EnvOracle` (log 6). -/
def Obligations.OracleLevelsAreSampled : Prop :=
  ∀ (k : Fin 8) (s : State) (levels : List Level) (v : Level), s.Ready → s.NoPinFault → s.env = .oracle levels →
    levels[k.val]? = some v →
    ∃ t, exec (buttonGetter k) s = .next t ∧ t.res = .okBit (v == .high) ∧ t.env = .oracle (levels.drop 8)

/-- The host cannot read `OUT` (R26): with the oracle attached, whose levels do not depend on the lines, a getter returns
the same whatever `OUT` holds, faulted or not. -/
def Obligations.GettersDoNotRevealOut : Prop :=
  ∀ (k : Fin 8) (s t : State) (levels : List Level) (out : Vector Bool 16), s.env = .oracle levels →
    exec (buttonGetter k) s = .next t →
    ∃ u, exec (buttonGetter k) { s with out := out } = .next u ∧ u.res = t.res

/-! ### The cycle -/

/-- One drive (R101): if the pin layer answers `Ok` the line holds the new level and its token is in the trace; if it
answers `Err(e)` the line is unspecified, `F<SEQ>` is in the trace and the error goes on. No other line, no cell of `OUT` or
`IN`, and none of `SEQ`, `INIT` and `RES` changes either way. -/
def Obligations.DriveIsOneLineOperation : Prop :=
  ∀ (L : Line) (v : Level) (s : State),
    (s.answerAt 0 = .ok → ∃ t, drive L v s = .done t ∧ t.lvl L = .driven v ∧ t.trace = s.trace ++ [.drove L v]
      ∧ (∀ K, K ≠ L → t.lvl K = s.lvl K)
      ∧ t.out = s.out ∧ t.input = s.input ∧ t.seq = s.seq ∧ t.init = s.init ∧ t.res = s.res)
    ∧ (∀ e, s.answerAt 0 = .err e → ∃ t, drive L v s = .failed e t ∧ (t.lvl L).isUnspecified = true
      ∧ t.trace = s.trace ++ [.fault s.seq] ∧ (∀ K, K ≠ L → t.lvl K = s.lvl K)
      ∧ t.out = s.out ∧ t.input = s.input ∧ t.seq = s.seq ∧ t.init = s.init ∧ t.res = s.res)

/-- One read (R102): if the pin layer answers `Ok` the cell holds the bit that the environment's level reads as, and its
token is in the trace; if it answers `Err(e)`, `F<SEQ>` is in the trace, no cell changes and the error goes on. No line
changes either way. -/
def Obligations.SampleIsOneLineOperation : Prop :=
  ∀ (i : Fin 8) (s : State),
    (s.answerAt 0 = .ok → ∃ (t : State) (b : Bool), sample i s = .done t ∧ t.input[i] = some b
      ∧ (b = true ↔ s.env.level s.ops (s.lvlSdo.level .sdo) = .high) ∧ t.trace = s.trace ++ [.read b]
      ∧ (∀ j : Fin 8, j ≠ i → t.input[j] = s.input[j]) ∧ ∀ K, t.lvl K = s.lvl K)
    ∧ (∀ e, s.answerAt 0 = .err e → ∃ t, sample i s = .failed e t ∧ t.trace = s.trace ++ [.fault s.seq]
      ∧ t.input = s.input ∧ ∀ K, t.lvl K = s.lvl K)

/-- Every successful command sends one frame: the tokens of R72 in order, slot after slot in ascending index order, every
bit of `OUT` as it is, and the samples in ascending order (R53, R72, R74). -/
def Obligations.SuccessSendsOneFrame : Prop :=
  ∀ (i : Instr) (s : State), s.Accepts i → s.NoPinFault →
    ∃ (ins : Vector Bool 8) (t : State), exec i s = .next t ∧ t.trace = s.trace ++ frame t.out ins
      ∧ drivesOf .sdo (frame t.out ins) = t.out.toList.map lv
      ∧ readsOf (frame t.out ins) = ins.toList
      ∧ (∀ c : Fin 16, (frame t.out ins)[dataPosition c]? = some (.drove .sdo (lv t.out[c])))
      ∧ (∀ k : Fin 8, (frame t.out ins)[readPosition k]? = some (.read ins[k]))

/-- The operation counts of one successful cycle (R117). -/
def Obligations.OperationCounts : Prop :=
  ∀ (i : Instr) (s : State), s.Accepts i → s.NoPinFault →
    ∃ (toks : List Token) (t : State), exec i s = .next t ∧ t.trace = s.trace ++ toks
      ∧ (drivesOf .latch toks).count .low = 1 ∧ (drivesOf .latch toks).count .high = 1
      ∧ (drivesOf .clk toks).count .low = 16 ∧ (drivesOf .clk toks).count .high = 16
      ∧ (drivesOf .sdo toks).length = 16 ∧ (drivesOf .sdo toks).count .high = t.out.toList.count true
      ∧ (readsOf toks).length = 8 ∧ toks.length = 58

/-- `LATCH` is driven exactly twice in a successful cycle, low first and high last; all clock pulses, data drives and
reads lie strictly between (R107). -/
def Obligations.LatchFramesTheCycle : Prop :=
  ∀ (i : Instr) (s : State), s.Accepts i → s.NoPinFault →
    ∃ (mid : List Token) (t : State), exec i s = .next t
      ∧ t.trace = s.trace ++ (.drove .latch .low :: (mid ++ [.drove .latch .high]))
      ∧ drivesOf .latch mid = [] ∧ drivesOf .clk mid = (List.replicate 16 [Level.low, Level.high]).flatten
      ∧ (drivesOf .sdo mid).length = 16 ∧ (readsOf mid).length = 8

/-- The clock of a successful cycle (R105): low and high in turn sixteen times, low first, high last; sixteen rising edges
whatever the line was at before; sixteen falling edges if it was high, fifteen if it was low. -/
def Obligations.ClockEdges : Prop :=
  ∀ (i : Instr) (s : State), s.Accepts i → s.NoPinFault →
    ∃ (ins : Vector Bool 8) (t : State), exec i s = .next t ∧ t.trace = s.trace ++ frame t.out ins
      ∧ drivesOf .clk (frame t.out ins) = (List.replicate 16 [Level.low, Level.high]).flatten
      ∧ (∀ now, edges .clk .low .high now (frame t.out ins) = 16)
      ∧ edges .clk .high .low .high (frame t.out ins) = 16
      ∧ edges .clk .high .low .low (frame t.out ins) = 15

/-- The latch of a successful cycle rises once whatever it was at before, and falls once if it was high, not at all if it
was low, as it is after a fault inside the transfer window (R108, R109, T3). -/
def Obligations.LatchEdges : Prop :=
  ∀ (i : Instr) (s : State), s.Accepts i → s.NoPinFault →
    ∃ (toks : List Token) (t : State), exec i s = .next t ∧ t.trace = s.trace ++ toks
      ∧ (∀ now, edges .latch .low .high now toks = 1)
      ∧ edges .latch .high .low .high toks = 1 ∧ edges .latch .high .low .low toks = 0

/-- The levels after a successful cycle (R111), whatever they were before; and high, high, low while `OUT[15]` is false
(R212). -/
def Obligations.LinesRestAfterSuccess : Prop :=
  ∀ (i : Instr) (s : State), s.Accepts i → s.NoPinFault →
    ∃ t, exec i s = .next t ∧ t.lvlClk = .driven .high ∧ t.lvlLatch = .driven .high
      ∧ t.lvlSdo = .driven (lv t.out[15]) ∧ t.seq = .idle
      ∧ ((s.init = true → s.out[15] = false) → t.lvlSdo = .driven .low)

/-- The edge discipline (R104), wherever in the cycle the sequencer stands after successful operations: data is driven
while the clock is low; the clock rises with the slot's bit on `SDO`; a read comes directly after a clock rise, with the
clock high. -/
def Obligations.EdgeDiscipline : Prop :=
  ∀ (s t : State) (m : Nat) (n : Fin 58) (op : LineOp),
    cyclePlan[m]? = some (n, op) → runPlan (cyclePlan.take m) s = .done t →
    (∀ c, op = .data c → t.lvlClk = .driven .low ∧ dataPosition c = m)
    ∧ (op = .drive .clk .high → t.lvlClk = .driven .low
        ∧ ∃ c : Fin 16, dataPosition c + 1 = m ∧ t.lvlSdo = .driven (lv s.out[c]))
    ∧ (∀ k, op = .read k → t.lvlClk = .driven .high ∧ readPosition k = m
        ∧ (cyclePlan[m - 1]?).map Prod.snd = some (.drive .clk .high))

/-- The table of the 58 positions, in its closed forms (R103). -/
def Obligations.SequencerTable : Prop :=
  cyclePlan.length = 58
  ∧ cyclePlan[0]? = some (0, .drive .latch .low)
  ∧ (∀ i : Fin 8,
      cyclePlan[1 + 4 * i.val]? = some (⟨1 + 4 * i, by omega⟩, .drive .clk .low)
      ∧ cyclePlan[2 + 4 * i.val]? = some (⟨2 + 4 * i, by omega⟩, .data ⟨i, by omega⟩)
      ∧ cyclePlan[3 + 4 * i.val]? = some (⟨3 + 4 * i, by omega⟩, .drive .clk .high)
      ∧ cyclePlan[4 + 4 * i.val]? = some (⟨4 + 4 * i, by omega⟩, .read i))
  ∧ (∀ j : Fin 8,
      cyclePlan[33 + 3 * j.val]? = some (⟨33 + 3 * j, by omega⟩, .drive .clk .low)
      ∧ cyclePlan[34 + 3 * j.val]? = some (⟨34 + 3 * j, by omega⟩, .data ⟨8 + j, by omega⟩)
      ∧ cyclePlan[35 + 3 * j.val]? = some (⟨35 + 3 * j, by omega⟩, .drive .clk .high))
  ∧ cyclePlan[57]? = some (57, .drive .latch .high)

/-- The levels of the lines before a cycle do not change which operations are issued (R100), nor anything else a command
does when no line operation fails. -/
def Obligations.EarlierLevelsDoNotMatter : Prop :=
  ∀ (i : Instr) (s : State) (a b c : LineLevel), s.NoPinFault →
    exec i { s with lvlClk := a, lvlLatch := b, lvlSdo := c } = exec i s

/-- The block never reads the trace (R38): with another record behind it a command does the same and appends the same.
That the record stands in State is the model's choice (log 11). -/
def Obligations.TraceIsNeverRead : Prop :=
  ∀ (i : Instr) (s t : State) (tr : List Token), exec i s = .next t →
    ∃ toks, t.trace = s.trace ++ toks ∧ exec i { s with trace := tr } = .next { t with trace := tr ++ toks }

/-! ### The pin fault -/

/-- Taking `PinFault(e)` at the first line operation that fails, position `n`, of any accepted command (R188): the
operations before `n` are in the trace and their levels stay, `n` was attempted once, no later one was; a drive that
failed leaves its line unspecified; `IN` has no value, `SEQ` is idle, `RES` is `Err(e)`; `INIT` is false if the command was
`NEW`; otherwise `INIT` and `OUT` are not touched by the fault. An unspecified line says which attempt left it so, and `ops` and
`pins` count the attempts: the model's own bookkeeping (log 4, log 5, log 11). -/
def Obligations.PinFaultEntry : Prop :=
  ∀ (i : Instr) (s : State) (n : Fin 58) (e : PinError), s.Accepts i → s.FaultAt n e →
    ∃ (out : Vector Bool 16) (ins : Vector Bool 8) (t : State), exec i s = .next t
      ∧ (∀ c : Fin 16, out[c] = (i.writes c).getD s.out[c])
      ∧ t.trace = s.trace ++ (frame out ins).take n ++ [.fault (.pos n)]
      ∧ t.ops = s.ops + n + 1 ∧ t.pins = s.pins.drop (n + 1)
      ∧ t.input = noSamples ∧ t.seq = .idle ∧ t.res = .err e ∧ t.host = s.host
      ∧ (i = .new → t.init = false) ∧ (i ≠ .new → t.init = s.init ∧ t.out = out)
      ∧ ∀ L : Line,
        (∀ v, (frame out ins)[n.val]? = some (.drove L v) → t.lvl L = .failed (s.ops + n))
        ∧ ((∀ v, (frame out ins)[n.val]? ≠ some (.drove L v)) →
            t.lvl L = levelAfter L (s.lvl L) ((frame out ins).take n))

/-- The lines after a fault, position by position (R190). -/
def Obligations.LinesAfterFault : Prop :=
  ∀ (i : Instr) (s : State) (n : Fin 58) (e : PinError), s.Accepts i → s.FaultAt n e →
    ∃ t, exec i s = .next t
      -- LATCH is low after a fault at 1..56, unspecified after one at 0 or 57
      ∧ (1 ≤ n.val ∧ n.val ≤ 56 → t.lvlLatch = .driven .low)
      ∧ (n.val = 0 ∨ n.val = 57 → t.lvlLatch.isUnspecified = true)
      -- CLK is unspecified after a fault at a clock position, otherwise as the last successful clock drive left it
      ∧ (∀ j : Fin 16, n.val = dataPosition j - 1 ∨ n.val = dataPosition j + 1 → t.lvlClk.isUnspecified = true)
      ∧ (n.val = 0 → t.lvlClk = s.lvlClk)
      ∧ (∀ j : Fin 16, n.val = dataPosition j → t.lvlClk = .driven .low)
      ∧ (∀ k : Fin 8, n.val = readPosition k → t.lvlClk = .driven .high)
      ∧ (n.val = 57 → t.lvlClk = .driven .high)
      -- SDO likewise
      ∧ (∀ j : Fin 16, n.val = dataPosition j → t.lvlSdo.isUnspecified = true)
      ∧ (n.val ≤ 1 → t.lvlSdo = s.lvlSdo)
      ∧ (∀ j : Fin 16, dataPosition j < n.val → (∀ m : Fin 16, j < m → n.val < dataPosition m) →
          t.lvlSdo = .driven (lv ((i.writes j).getD s.out[j])))
      -- after a fault at 0 nothing but the failed LATCH drive was attempted; at 57 all sixteen bits have been shifted
      ∧ (n.val = 0 → t.trace = s.trace ++ [.fault (.pos 0)])
      ∧ (n.val = 57 → ∃ toks, t.trace = s.trace ++ toks ∧ ∀ now, edges .clk .low .high now toks = 16)

/-- After a fault of any command but `NEW` the block is at once ready (R192): `INIT` stays, `OUT` holds the desired
state, and the next command whose cycle succeeds sends all sixteen bits of it in a fresh frame. -/
def Obligations.FaultLeavesBlockUsable : Prop :=
  ∀ (i : Instr) (s : State) (n : Fin 58) (e : PinError), i ≠ .new → s.Ready → s.FaultAt n e →
    ∃ t, exec i s = .next t ∧ t.Ready ∧ (∀ c : Fin 16, t.out[c] = (i.writes c).getD s.out[c])
      ∧ ∀ j : Instr, t.NoPinFault → ∃ (ins : Vector Bool 8) (u : State), exec j t = .next u ∧ u.init = true
        ∧ u.trace = t.trace ++ frame u.out ins ∧ ∀ c : Fin 16, u.out[c] = (j.writes c).getD t.out[c]

/-- The block never inspects an error, it only hands it on (R187, R185): with another error at the same place everything
is the same but the error handed back. The list of answers and the numbers that name errors are the model's choice (log 5,
log 7). -/
def Obligations.ErrorIsNeverInspected : Prop :=
  ∀ (i : Instr) (s t : State) (n : Fin 58) (e e' : PinError), s.FaultAt n e → n.val < s.pins.length →
    exec i s = .next t →
    exec i { s with pins := s.pins.set n (.err e') } = .next { t with res := .err e' }

/-! ### `OUT` over many commands -/

/-- Last write wins (R156): after any sequence of setters, `SEG`s and getters each cell of `OUT` holds what the last of
them that writes it wrote, or what it held before, whether or not their cycles succeeded. -/
def Obligations.LastWriteWins : Prop :=
  ∀ (cmds : List Instr) (s : State), .new ∉ cmds → s.Ready →
    ∃ t, runCommands cmds s = .next t ∧ t.Ready ∧ ∀ c : Fin 16, t.out[c] = (lastWrite c cmds).getD s.out[c]

/-- The shared cell `OUT[8]` (R24, R166): it holds what the most recent of its two writers wrote, `D9` or `SEG`, whatever
commands came before and whatever commands that do not write it came after; and the two sequences of R166. -/
def Obligations.SharedCellHasTwoWriters : Prop :=
  (∀ (b : Bool) (p : Pattern) (before after : List Instr) (s : State), s.Ready → .new ∉ before →
    (∀ j ∈ after, j ≠ .new ∧ (∀ v, j ≠ .d9 v) ∧ ∀ q, j ≠ .seg q) →
    (∃ t, runCommands (before ++ .d9 b :: after) s = .next t ∧ t.out[8] = b)
    ∧ (∃ t, runCommands (before ++ .seg p :: after) s = .next t ∧ t.out[8] = p[0]))
  ∧ (∀ s : State, s.Ready → s.out = allOff →
    (∃ t, runCommands [.d9 true, expandDisplay .one] s = .next t ∧ t.out[8] = false ∧ t.outW = 0x3000)
    ∧ (∃ t, runCommands [expandDisplay .one, .d9 true] s = .next t ∧ t.out[8] = true ∧ t.outW = 0x3100))

/-- The resolver (R161) and the words of the pseudo-instructions (R86). -/
def Obligations.ResolverPatterns : Prop :=
  resolve .one = #v[false, false, false, false, true, true, false]
  ∧ (∀ q : Pattern, resolve (.custom q) = q)
  ∧ (∀ g : Nat, resolve (.named g) = #v[false, false, false, false, false, false, false])
  ∧ encode (expandDisplay .one) = 0x2030
  ∧ (∀ g : Nat, encode (expandDisplay (.named g)) = 0x2000)
  ∧ (∀ q : Pattern, (encode (expandDisplay (.custom q))).toNat = 0x2000 + q.number)

/-- `OUT[15]` is false while `INIT` is true: a `NEW` that succeeds makes it so, no other command writes it, and every
successful cycle sends it as a low level in slot 15 (R23). -/
def Obligations.ReservedCellStaysFalse : Prop :=
  ∀ (i : Instr) (s t : State), exec i s = .next t →
    (i ≠ .new → t.out[15] = s.out[15])
    ∧ ((s.init = true → s.out[15] = false) → t.init = true → t.out[15] = false)
    ∧ ((s.init = true → s.out[15] = false) → s.NoPinFault →
        (t.trace.drop s.trace.length)[55]? = some (.drove .sdo .low))

/-! ### Power-on and invariants -/

/-- Power-on (R39, R210): Unconstructed, idle, no result, no sample, every line unspecified. -/
def Obligations.PowerOnState : Prop :=
  State.reset.init = false ∧ State.reset.seq = .idle ∧ State.reset.res = .none ∧ State.reset.input = noSamples
  ∧ ∀ L, (State.reset.lvl L).isUnspecified = true

/-- Nothing survives a loss of power (R197): the block is Unconstructed whatever it was, and only `NEW` is accepted.
That a loss of power is an event outside `step` is the model's choice (log 20). -/
def Obligations.PowerLossUnconstructs : Prop :=
  ∀ s : State, (powerCycle s).init = false ∧ (powerCycle s).seq = .idle ∧ (powerCycle s).res = .none
    ∧ (powerCycle s).input = noSamples ∧ (∀ L, ((powerCycle s).lvl L).isUnspecified = true)
    ∧ (∀ i, i ≠ .new → exec i (powerCycle s) = .refused .notConstructed)
    ∧ ∃ t, exec .new (powerCycle s) = .next t

/-- A launch with two roles on one pin is refused, any other leaves the block at power-on (R214, U1). The form
of a launch is the model's choice (log 22). -/
def Obligations.LaunchNeedsDistinctPins : Prop :=
  ∀ clk latch sdo sdi : Nat,
    ((clk ≠ latch ∧ clk ≠ sdo ∧ clk ≠ sdi ∧ latch ≠ sdo ∧ latch ≠ sdi ∧ sdo ≠ sdi) →
      launch clk latch sdo sdi = .next State.reset)
    ∧ ((clk = latch ∨ clk = sdo ∨ clk = sdi ∨ latch = sdo ∨ latch = sdi ∨ sdo = sdi) →
      launch clk latch sdo sdi = .refused .aliasedPins)

/-- The invariant holds at power-on. Its clauses `counted` and `drawn` are about the model's own record (log 11). -/
def Obligations.InvariantAtReset : Prop := State.reset.Inv

/-- Every step keeps the invariant: idle, no sample kept, `OUT[15]` false while constructed (R23), a result once constructed,
lines at rest after a success (R212), `LATCH` low or unspecified after a fault (R190), every operation recorded once.
Its clauses `counted` and `drawn` are about the model's own record (log 11). -/
def Obligations.StepKeepsInvariant : Prop := ∀ s t : State, s.Inv → step s = .next t → t.Inv

/-- From power-on, with any host, any pin layer and any environment, every state that is reached meets the invariant.
Its clauses `counted` and `drawn` are about the model's own record (log 11), and the host's words, the answers and the
environment stand in the forms of log 5, log 6 and log 9. -/
def Obligations.ReachedStatesMeetInvariant : Prop :=
  ∀ (words : List Word) (pins : List PinAnswer) (env : Environment) (k : Nat) (t : State),
    core.run k { State.reset with host := words, pins := pins, env := env } = .next t → t.Inv

/-! ### The attached chain (reference environments) -/

/-- With `ENV-CHAIN16` attached, a successful command of any kind leaves `SR[m] = PAR[m] = OUT[15-m]`, whatever the chain
held before (R204, T21). -/
def Obligations.ChainHoldsOutReversed : Prop :=
  ∀ (i : Instr) (s : State) (sr par : Vector Bool 16), s.Accepts i → s.NoPinFault → s.env = .chain16 sr par →
    ∃ (t : State) (sr' : Vector Bool 16), exec i s = .next t ∧ t.env = .chain16 sr' sr'
      ∧ ∀ m : Fin 16, sr'[m] = t.out[15 - m.val]

/-- With `ENV-CHAIN16` attached, after a fault of any command (R223): before position 57 the outputs of the chain still show
the previous committed frame; at 57 all sixteen bits have been shifted and their commit did or did not happen; and any
command that then succeeds makes stages and outputs show `OUT` again. That no failed drive but the commit reaches the
chain, and that the commit in doubt is a free value, is the model's reading (log 14). -/
def Obligations.FaultLeavesChainOutputs : Prop :=
  ∀ (i : Instr) (s : State) (n : Fin 58) (e : PinError) (sr par : Vector Bool 16),
    s.Accepts i → s.FaultAt n e → s.env = .chain16 sr par →
    ∃ (t : State) (sr' par' : Vector Bool 16), exec i s = .next t ∧ t.env = .chain16 sr' par'
      ∧ (n.val < 57 → par' = par)
      ∧ (n.val = 57 → (par' = par ∨ par' = sr')
          ∧ ∀ m : Fin 16, sr'[m] = (i.writes ⟨15 - m.val, by omega⟩).getD s.out[15 - m.val])
      ∧ ∀ j : Instr, t.Accepts j → t.NoPinFault →
          ∃ (u : State) (sr'' : Vector Bool 16), exec j t = .next u ∧ u.env = .chain16 sr'' sr''
            ∧ ∀ m : Fin 16, sr''[m] = u.out[15 - m.val]

/-- With `ENV-LOOP(d)` attached, a successful `Sk` returns `OUT[k-1]` for d = 0, and for d ≥ 1 the bit sent d-1 slots
earlier, or, before that many slots have passed, what the stages held (R204, S4). -/
def Obligations.LoopbackReturnsSentBits : Prop :=
  ∀ (k : Fin 8) (s : State) (st : List Bool), s.Ready → s.NoPinFault → s.env = .loop st →
    ∃ (t : State) (b : Bool), exec (buttonGetter k) s = .next t ∧ t.res = .okBit b
      ∧ (st = [] → b = s.out[k.val])
      ∧ (1 ≤ st.length → st.length ≤ k.val + 1 → s.out[k.val + 1 - st.length]? = some b)
      ∧ (k.val + 1 < st.length → st[st.length - 2 - k.val]? = some b)

/-- With `ENV-CONST(b)` attached, every successful getter returns `b`, high as true (R204, T8). -/
def Obligations.ConstantEnvironmentIsSampled : Prop :=
  ∀ (k : Fin 8) (s : State) (v : Level), s.Ready → s.NoPinFault → s.env = .const v →
    ∃ t, exec (buttonGetter k) s = .next t ∧ t.res = .okBit (v == .high) ∧ t.env = .const v
end

