-- ==== Sys2Proof/Laws/State.lean ====
section
/-! SUPPORT. One lemma per field per update of the state, all true by `rfl`, so that no proof unfolds a record update;
and the same for the line registers. -/

namespace Sys2Proof.Machine

variable (s : State)

@[simp] theorem State.setOut_out (v : Vector Bool 16) : (s.setOut v).out = v := rfl
@[simp] theorem State.setOut_input (v : Vector Bool 16) : (s.setOut v).input = s.input := rfl
@[simp] theorem State.setOut_lvlClk (v : Vector Bool 16) : (s.setOut v).lvlClk = s.lvlClk := rfl
@[simp] theorem State.setOut_lvlLatch (v : Vector Bool 16) : (s.setOut v).lvlLatch = s.lvlLatch := rfl
@[simp] theorem State.setOut_lvlSdo (v : Vector Bool 16) : (s.setOut v).lvlSdo = s.lvlSdo := rfl
@[simp] theorem State.setOut_seq (v : Vector Bool 16) : (s.setOut v).seq = s.seq := rfl
@[simp] theorem State.setOut_init (v : Vector Bool 16) : (s.setOut v).init = s.init := rfl
@[simp] theorem State.setOut_res (v : Vector Bool 16) : (s.setOut v).res = s.res := rfl
@[simp] theorem State.setOut_host (v : Vector Bool 16) : (s.setOut v).host = s.host := rfl
@[simp] theorem State.setOut_pins (v : Vector Bool 16) : (s.setOut v).pins = s.pins := rfl
@[simp] theorem State.setOut_env (v : Vector Bool 16) : (s.setOut v).env = s.env := rfl
@[simp] theorem State.setOut_ops (v : Vector Bool 16) : (s.setOut v).ops = s.ops := rfl
@[simp] theorem State.setOut_trace (v : Vector Bool 16) : (s.setOut v).trace = s.trace := rfl

@[simp] theorem State.setInput_out (v : Vector (Option Bool) 8) : (s.setInput v).out = s.out := rfl
@[simp] theorem State.setInput_input (v : Vector (Option Bool) 8) : (s.setInput v).input = v := rfl
@[simp] theorem State.setInput_lvlClk (v : Vector (Option Bool) 8) : (s.setInput v).lvlClk = s.lvlClk := rfl
@[simp] theorem State.setInput_lvlLatch (v : Vector (Option Bool) 8) : (s.setInput v).lvlLatch = s.lvlLatch := rfl
@[simp] theorem State.setInput_lvlSdo (v : Vector (Option Bool) 8) : (s.setInput v).lvlSdo = s.lvlSdo := rfl
@[simp] theorem State.setInput_seq (v : Vector (Option Bool) 8) : (s.setInput v).seq = s.seq := rfl
@[simp] theorem State.setInput_init (v : Vector (Option Bool) 8) : (s.setInput v).init = s.init := rfl
@[simp] theorem State.setInput_res (v : Vector (Option Bool) 8) : (s.setInput v).res = s.res := rfl
@[simp] theorem State.setInput_host (v : Vector (Option Bool) 8) : (s.setInput v).host = s.host := rfl
@[simp] theorem State.setInput_pins (v : Vector (Option Bool) 8) : (s.setInput v).pins = s.pins := rfl
@[simp] theorem State.setInput_env (v : Vector (Option Bool) 8) : (s.setInput v).env = s.env := rfl
@[simp] theorem State.setInput_ops (v : Vector (Option Bool) 8) : (s.setInput v).ops = s.ops := rfl
@[simp] theorem State.setInput_trace (v : Vector (Option Bool) 8) : (s.setInput v).trace = s.trace := rfl

@[simp] theorem State.setSample_out (i : Fin 8) (b : Bool) : (s.setSample i b).out = s.out := rfl
@[simp] theorem State.setSample_input (i : Fin 8) (b : Bool) : (s.setSample i b).input = s.input.set i (some b) := rfl
@[simp] theorem State.setSample_lvlClk (i : Fin 8) (b : Bool) : (s.setSample i b).lvlClk = s.lvlClk := rfl
@[simp] theorem State.setSample_lvlLatch (i : Fin 8) (b : Bool) : (s.setSample i b).lvlLatch = s.lvlLatch := rfl
@[simp] theorem State.setSample_lvlSdo (i : Fin 8) (b : Bool) : (s.setSample i b).lvlSdo = s.lvlSdo := rfl
@[simp] theorem State.setSample_seq (i : Fin 8) (b : Bool) : (s.setSample i b).seq = s.seq := rfl
@[simp] theorem State.setSample_init (i : Fin 8) (b : Bool) : (s.setSample i b).init = s.init := rfl
@[simp] theorem State.setSample_res (i : Fin 8) (b : Bool) : (s.setSample i b).res = s.res := rfl
@[simp] theorem State.setSample_host (i : Fin 8) (b : Bool) : (s.setSample i b).host = s.host := rfl
@[simp] theorem State.setSample_pins (i : Fin 8) (b : Bool) : (s.setSample i b).pins = s.pins := rfl
@[simp] theorem State.setSample_env (i : Fin 8) (b : Bool) : (s.setSample i b).env = s.env := rfl
@[simp] theorem State.setSample_ops (i : Fin 8) (b : Bool) : (s.setSample i b).ops = s.ops := rfl
@[simp] theorem State.setSample_trace (i : Fin 8) (b : Bool) : (s.setSample i b).trace = s.trace := rfl

@[simp] theorem State.setSeq_out (n : Seq) : (s.setSeq n).out = s.out := rfl
@[simp] theorem State.setSeq_input (n : Seq) : (s.setSeq n).input = s.input := rfl
@[simp] theorem State.setSeq_lvlClk (n : Seq) : (s.setSeq n).lvlClk = s.lvlClk := rfl
@[simp] theorem State.setSeq_lvlLatch (n : Seq) : (s.setSeq n).lvlLatch = s.lvlLatch := rfl
@[simp] theorem State.setSeq_lvlSdo (n : Seq) : (s.setSeq n).lvlSdo = s.lvlSdo := rfl
@[simp] theorem State.setSeq_seq (n : Seq) : (s.setSeq n).seq = n := rfl
@[simp] theorem State.setSeq_init (n : Seq) : (s.setSeq n).init = s.init := rfl
@[simp] theorem State.setSeq_res (n : Seq) : (s.setSeq n).res = s.res := rfl
@[simp] theorem State.setSeq_host (n : Seq) : (s.setSeq n).host = s.host := rfl
@[simp] theorem State.setSeq_pins (n : Seq) : (s.setSeq n).pins = s.pins := rfl
@[simp] theorem State.setSeq_env (n : Seq) : (s.setSeq n).env = s.env := rfl
@[simp] theorem State.setSeq_ops (n : Seq) : (s.setSeq n).ops = s.ops := rfl
@[simp] theorem State.setSeq_trace (n : Seq) : (s.setSeq n).trace = s.trace := rfl

@[simp] theorem State.setInit_out (b : Bool) : (s.setInit b).out = s.out := rfl
@[simp] theorem State.setInit_input (b : Bool) : (s.setInit b).input = s.input := rfl
@[simp] theorem State.setInit_lvlClk (b : Bool) : (s.setInit b).lvlClk = s.lvlClk := rfl
@[simp] theorem State.setInit_lvlLatch (b : Bool) : (s.setInit b).lvlLatch = s.lvlLatch := rfl
@[simp] theorem State.setInit_lvlSdo (b : Bool) : (s.setInit b).lvlSdo = s.lvlSdo := rfl
@[simp] theorem State.setInit_seq (b : Bool) : (s.setInit b).seq = s.seq := rfl
@[simp] theorem State.setInit_init (b : Bool) : (s.setInit b).init = b := rfl
@[simp] theorem State.setInit_res (b : Bool) : (s.setInit b).res = s.res := rfl
@[simp] theorem State.setInit_host (b : Bool) : (s.setInit b).host = s.host := rfl
@[simp] theorem State.setInit_pins (b : Bool) : (s.setInit b).pins = s.pins := rfl
@[simp] theorem State.setInit_env (b : Bool) : (s.setInit b).env = s.env := rfl
@[simp] theorem State.setInit_ops (b : Bool) : (s.setInit b).ops = s.ops := rfl
@[simp] theorem State.setInit_trace (b : Bool) : (s.setInit b).trace = s.trace := rfl

@[simp] theorem State.setRes_out (r : Res) : (s.setRes r).out = s.out := rfl
@[simp] theorem State.setRes_input (r : Res) : (s.setRes r).input = s.input := rfl
@[simp] theorem State.setRes_lvlClk (r : Res) : (s.setRes r).lvlClk = s.lvlClk := rfl
@[simp] theorem State.setRes_lvlLatch (r : Res) : (s.setRes r).lvlLatch = s.lvlLatch := rfl
@[simp] theorem State.setRes_lvlSdo (r : Res) : (s.setRes r).lvlSdo = s.lvlSdo := rfl
@[simp] theorem State.setRes_seq (r : Res) : (s.setRes r).seq = s.seq := rfl
@[simp] theorem State.setRes_init (r : Res) : (s.setRes r).init = s.init := rfl
@[simp] theorem State.setRes_res (r : Res) : (s.setRes r).res = r := rfl
@[simp] theorem State.setRes_host (r : Res) : (s.setRes r).host = s.host := rfl
@[simp] theorem State.setRes_pins (r : Res) : (s.setRes r).pins = s.pins := rfl
@[simp] theorem State.setRes_env (r : Res) : (s.setRes r).env = s.env := rfl
@[simp] theorem State.setRes_ops (r : Res) : (s.setRes r).ops = s.ops := rfl
@[simp] theorem State.setRes_trace (r : Res) : (s.setRes r).trace = s.trace := rfl

@[simp] theorem State.setEnv_out (e : Environment) : (s.setEnv e).out = s.out := rfl
@[simp] theorem State.setEnv_input (e : Environment) : (s.setEnv e).input = s.input := rfl
@[simp] theorem State.setEnv_lvlClk (e : Environment) : (s.setEnv e).lvlClk = s.lvlClk := rfl
@[simp] theorem State.setEnv_lvlLatch (e : Environment) : (s.setEnv e).lvlLatch = s.lvlLatch := rfl
@[simp] theorem State.setEnv_lvlSdo (e : Environment) : (s.setEnv e).lvlSdo = s.lvlSdo := rfl
@[simp] theorem State.setEnv_seq (e : Environment) : (s.setEnv e).seq = s.seq := rfl
@[simp] theorem State.setEnv_init (e : Environment) : (s.setEnv e).init = s.init := rfl
@[simp] theorem State.setEnv_res (e : Environment) : (s.setEnv e).res = s.res := rfl
@[simp] theorem State.setEnv_host (e : Environment) : (s.setEnv e).host = s.host := rfl
@[simp] theorem State.setEnv_pins (e : Environment) : (s.setEnv e).pins = s.pins := rfl
@[simp] theorem State.setEnv_env (e : Environment) : (s.setEnv e).env = e := rfl
@[simp] theorem State.setEnv_ops (e : Environment) : (s.setEnv e).ops = s.ops := rfl
@[simp] theorem State.setEnv_trace (e : Environment) : (s.setEnv e).trace = s.trace := rfl

@[simp] theorem State.setHost_out (ws : List Word) : (s.setHost ws).out = s.out := rfl
@[simp] theorem State.setHost_input (ws : List Word) : (s.setHost ws).input = s.input := rfl
@[simp] theorem State.setHost_lvlClk (ws : List Word) : (s.setHost ws).lvlClk = s.lvlClk := rfl
@[simp] theorem State.setHost_lvlLatch (ws : List Word) : (s.setHost ws).lvlLatch = s.lvlLatch := rfl
@[simp] theorem State.setHost_lvlSdo (ws : List Word) : (s.setHost ws).lvlSdo = s.lvlSdo := rfl
@[simp] theorem State.setHost_seq (ws : List Word) : (s.setHost ws).seq = s.seq := rfl
@[simp] theorem State.setHost_init (ws : List Word) : (s.setHost ws).init = s.init := rfl
@[simp] theorem State.setHost_res (ws : List Word) : (s.setHost ws).res = s.res := rfl
@[simp] theorem State.setHost_host (ws : List Word) : (s.setHost ws).host = ws := rfl
@[simp] theorem State.setHost_pins (ws : List Word) : (s.setHost ws).pins = s.pins := rfl
@[simp] theorem State.setHost_env (ws : List Word) : (s.setHost ws).env = s.env := rfl
@[simp] theorem State.setHost_ops (ws : List Word) : (s.setHost ws).ops = s.ops := rfl
@[simp] theorem State.setHost_trace (ws : List Word) : (s.setHost ws).trace = s.trace := rfl

@[simp] theorem State.attempted_out : s.attempted.out = s.out := rfl
@[simp] theorem State.attempted_input : s.attempted.input = s.input := rfl
@[simp] theorem State.attempted_lvlClk : s.attempted.lvlClk = s.lvlClk := rfl
@[simp] theorem State.attempted_lvlLatch : s.attempted.lvlLatch = s.lvlLatch := rfl
@[simp] theorem State.attempted_lvlSdo : s.attempted.lvlSdo = s.lvlSdo := rfl
@[simp] theorem State.attempted_seq : s.attempted.seq = s.seq := rfl
@[simp] theorem State.attempted_init : s.attempted.init = s.init := rfl
@[simp] theorem State.attempted_res : s.attempted.res = s.res := rfl
@[simp] theorem State.attempted_host : s.attempted.host = s.host := rfl
@[simp] theorem State.attempted_pins : s.attempted.pins = s.pins.tail := rfl
@[simp] theorem State.attempted_env : s.attempted.env = s.env := rfl
@[simp] theorem State.attempted_ops : s.attempted.ops = s.ops + 1 := rfl
@[simp] theorem State.attempted_trace : s.attempted.trace = s.trace := rfl

@[simp] theorem State.record_out (k : Token) : (s.record k).out = s.out := rfl
@[simp] theorem State.record_input (k : Token) : (s.record k).input = s.input := rfl
@[simp] theorem State.record_lvlClk (k : Token) : (s.record k).lvlClk = s.lvlClk := rfl
@[simp] theorem State.record_lvlLatch (k : Token) : (s.record k).lvlLatch = s.lvlLatch := rfl
@[simp] theorem State.record_lvlSdo (k : Token) : (s.record k).lvlSdo = s.lvlSdo := rfl
@[simp] theorem State.record_seq (k : Token) : (s.record k).seq = s.seq := rfl
@[simp] theorem State.record_init (k : Token) : (s.record k).init = s.init := rfl
@[simp] theorem State.record_res (k : Token) : (s.record k).res = s.res := rfl
@[simp] theorem State.record_host (k : Token) : (s.record k).host = s.host := rfl
@[simp] theorem State.record_pins (k : Token) : (s.record k).pins = s.pins := rfl
@[simp] theorem State.record_env (k : Token) : (s.record k).env = s.env := rfl
@[simp] theorem State.record_ops (k : Token) : (s.record k).ops = s.ops := rfl
@[simp] theorem State.record_trace (k : Token) : (s.record k).trace = s.trace ++ [k] := rfl

@[simp] theorem State.setLvl_out (L : Line) (v : LineLevel) : (s.setLvl L v).out = s.out := by cases L <;> rfl
@[simp] theorem State.setLvl_input (L : Line) (v : LineLevel) : (s.setLvl L v).input = s.input := by cases L <;> rfl
@[simp] theorem State.setLvl_seq (L : Line) (v : LineLevel) : (s.setLvl L v).seq = s.seq := by cases L <;> rfl
@[simp] theorem State.setLvl_init (L : Line) (v : LineLevel) : (s.setLvl L v).init = s.init := by cases L <;> rfl
@[simp] theorem State.setLvl_res (L : Line) (v : LineLevel) : (s.setLvl L v).res = s.res := by cases L <;> rfl
@[simp] theorem State.setLvl_host (L : Line) (v : LineLevel) : (s.setLvl L v).host = s.host := by cases L <;> rfl
@[simp] theorem State.setLvl_pins (L : Line) (v : LineLevel) : (s.setLvl L v).pins = s.pins := by cases L <;> rfl
@[simp] theorem State.setLvl_env (L : Line) (v : LineLevel) : (s.setLvl L v).env = s.env := by cases L <;> rfl
@[simp] theorem State.setLvl_ops (L : Line) (v : LineLevel) : (s.setLvl L v).ops = s.ops := by cases L <;> rfl
@[simp] theorem State.setLvl_trace (L : Line) (v : LineLevel) : (s.setLvl L v).trace = s.trace := by cases L <;> rfl

@[simp] theorem State.lvl_clk : s.lvl .clk = s.lvlClk := rfl
@[simp] theorem State.lvl_latch : s.lvl .latch = s.lvlLatch := rfl
@[simp] theorem State.lvl_sdo : s.lvl .sdo = s.lvlSdo := rfl

@[simp] theorem State.setLvl_clk_lvlClk (v : LineLevel) : (s.setLvl .clk v).lvlClk = v := rfl
@[simp] theorem State.setLvl_clk_lvlLatch (v : LineLevel) : (s.setLvl .clk v).lvlLatch = s.lvlLatch := rfl
@[simp] theorem State.setLvl_clk_lvlSdo (v : LineLevel) : (s.setLvl .clk v).lvlSdo = s.lvlSdo := rfl
@[simp] theorem State.setLvl_latch_lvlClk (v : LineLevel) : (s.setLvl .latch v).lvlClk = s.lvlClk := rfl
@[simp] theorem State.setLvl_latch_lvlLatch (v : LineLevel) : (s.setLvl .latch v).lvlLatch = v := rfl
@[simp] theorem State.setLvl_latch_lvlSdo (v : LineLevel) : (s.setLvl .latch v).lvlSdo = s.lvlSdo := rfl
@[simp] theorem State.setLvl_sdo_lvlClk (v : LineLevel) : (s.setLvl .sdo v).lvlClk = s.lvlClk := rfl
@[simp] theorem State.setLvl_sdo_lvlLatch (v : LineLevel) : (s.setLvl .sdo v).lvlLatch = s.lvlLatch := rfl
@[simp] theorem State.setLvl_sdo_lvlSdo (v : LineLevel) : (s.setLvl .sdo v).lvlSdo = v := rfl

/-- Writing a line register gives that register and leaves the two others. -/
@[simp] theorem State.lvl_setLvl (L K : Line) (v : LineLevel) : (s.setLvl L v).lvl K = if K = L then v else s.lvl K := by
  cases L <;> cases K <;> rfl

/-- The line registers depend on the line fields alone. -/
theorem State.lvl_congr {s t : State} (hc : s.lvlClk = t.lvlClk) (hl : s.lvlLatch = t.lvlLatch) (hd : s.lvlSdo = t.lvlSdo)
    (L : Line) : s.lvl L = t.lvl L := by
  cases L <;> assumption

/-- The first answer is used up: the answers to come move up by one. -/
theorem State.answerAt_attempted (k : Nat) : s.attempted.answerAt k = s.answerAt (k + 1) := by
  have h : s.ops + 1 + k = s.ops + (k + 1) := by omega
  simp only [State.answerAt, State.attempted, List.getElem?_tail, h]

/-- The answers to come depend on the pin layer's list and the count of line operations alone. -/
theorem State.answerAt_congr {s t : State} (hp : s.pins = t.pins) (ho : s.ops = t.ops) (k : Nat) :
    s.answerAt k = t.answerAt k := by
  simp only [State.answerAt, hp, ho]

end Sys2Proof.Machine
end

