-- ==== Sys2Proof/Laws/Ops.lean ====
section
/-! SUPPORT. What the shared operations do, said once: one line operation (`perform`), taking the exception
(`raisePinFault`), and a list of line operations (`runPlan`). -/

namespace Sys2Proof.Machine

/-- The token a line operation leaves in the trace when it succeeds (R70, R102). -/
def tokenNow (op : LineOp) (s : State) : Token :=
  match op with
  | .drive L v => .drove L v
  | .data i => .drove .sdo (lv s.out[i])
  | .read _ => .read (bit (s.env.level s.ops (s.lvlSdo.level .sdo)))

/-- The environment after a line operation that succeeded. -/
def envNow (op : LineOp) (s : State) : Environment :=
  match op with
  | .drive L v => s.env.onDrive L v ((s.lvl L).level L) (s.lvlSdo.level .sdo)
  | .data i => s.env.onDrive .sdo (lv s.out[i]) (s.lvlSdo.level .sdo) (s.lvlSdo.level .sdo)
  | .read _ => s.env.afterRead

/-- The environment after a line operation that failed. -/
def envFailed (op : LineOp) (s : State) : Environment :=
  match op with
  | .drive L v => s.env.onFailedDrive L v ((s.lvl L).level L) s.ops
  | .data _ => s.env
  | .read _ => s.env

/-- `IN` after a line operation that succeeded. -/
def inputNow (op : LineOp) (s : State) : Vector (Option Bool) 8 :=
  match op with
  | .drive _ _ => s.input
  | .data _ => s.input
  | .read i => s.input.set i (some (bit (s.env.level s.ops (s.lvlSdo.level .sdo))))

/-- The line a line operation drives, if it drives one. -/
def LineOp.line : LineOp → Option Line
  | .drive L _ => some L
  | .data _ => some .sdo
  | .read _ => none

/-- The state after a line operation that succeeded (R101, R102). -/
def performed (op : LineOp) (s : State) : State :=
  { s with
    input := inputNow op s, pins := s.pins.tail, ops := s.ops + 1, env := envNow op s,
    lvlClk := levelAfter .clk s.lvlClk [tokenNow op s], lvlLatch := levelAfter .latch s.lvlLatch [tokenNow op s],
    lvlSdo := levelAfter .sdo s.lvlSdo [tokenNow op s], trace := s.trace ++ [tokenNow op s] }

/-- The state after a line operation that failed: the line it drives is unspecified (R101, R188), and a commit is in
doubt (R223). -/
def performFailed (op : LineOp) (s : State) : State :=
  { s with
    pins := s.pins.tail, ops := s.ops + 1, env := envFailed op s,
    lvlClk := if op.line = some .clk then .failed s.ops else s.lvlClk,
    lvlLatch := if op.line = some .latch then .failed s.ops else s.lvlLatch,
    lvlSdo := if op.line = some .sdo then .failed s.ops else s.lvlSdo,
    trace := s.trace ++ [.fault s.seq] }

/-- A line operation to which the pin layer answers `Ok`. -/
theorem perform_ok (op : LineOp) {s : State} (h : s.answerAt 0 = .ok) : perform op s = .done (performed op s) := by
  cases op with
  | drive L v => cases L <;> simp only [perform, drive, h] <;> rfl
  | data i => simp only [perform, drive, h]; rfl
  | read i => simp only [perform, sample, h]; rfl

/-- A line operation to which the pin layer answers `Err(e)`. -/
theorem perform_err (op : LineOp) {s : State} {e : PinError} (h : s.answerAt 0 = .err e) :
    perform op s = .failed e (performFailed op s) := by
  cases op with
  | drive L v => cases L <;> simp only [perform, drive, h] <;> rfl
  | data i => simp only [perform, drive, h]; rfl
  | read i => simp only [perform, sample, h]; rfl

/-- The line registers after a line operation that succeeded. -/
theorem performed_lvl (op : LineOp) (s : State) (L : Line) :
    (performed op s).lvl L = levelAfter L (s.lvl L) [tokenNow op s] := by
  cases L <;> rfl

/-- The line registers after a line operation that failed. -/
theorem performFailed_lvl (op : LineOp) (s : State) (L : Line) :
    (performFailed op s).lvl L = if op.line = some L then .failed s.ops else s.lvl L := by
  cases L <;> rfl

/-- The answers to come after a line operation that succeeded. -/
theorem performed_answerAt (op : LineOp) (s : State) (n : Fin 58) (k : Nat) :
    (performed op (s.setSeq (.pos n))).answerAt k = s.answerAt (k + 1) :=
  (State.answerAt_congr (s := performed op (s.setSeq (.pos n))) (t := s.attempted) rfl rfl k).trans (s.answerAt_attempted k)

/-- The state after the line operations of a list, all of them successful. -/
def performAll : List (Fin 58 × LineOp) → State → State
  | [], s => s
  | (n, op) :: rest, s => performAll rest (performed op (s.setSeq (.pos n)))

/-- The tokens of the line operations of a list, all of them successful. -/
def tokensOf : List (Fin 58 × LineOp) → State → List Token
  | [], _ => []
  | (n, op) :: rest, s => tokenNow op (s.setSeq (.pos n)) :: tokensOf rest (performed op (s.setSeq (.pos n)))

/-- The sequencer when the pin layer answers `Ok` to every operation of the list. -/
theorem runPlan_ok (plan : List (Fin 58 × LineOp)) {s : State} (h : ∀ k, k < plan.length → s.answerAt k = .ok) :
    runPlan plan s = .done (performAll plan s) := by
  induction plan generalizing s with
  | nil => rfl
  | cons x rest ih =>
    obtain ⟨n, op⟩ := x
    have h0 : (s.setSeq (.pos n)).answerAt 0 = .ok := h 0 (by simp)
    simp only [runPlan, perform_ok op h0, performAll]
    exact ih fun k hk => (performed_answerAt op s n k).trans (h (k + 1) (by simpa using hk))

/-- The sequencer stops at the first operation to which the pin layer answers `Err(e)` (R189): the operations before it
have been performed, it has been attempted once, the later ones have not. -/
theorem runPlan_fault (plan : List (Fin 58 × LineOp)) {s : State} {e : PinError} (m : Nat) {n : Fin 58} {op : LineOp}
    (hm : plan[m]? = some (n, op)) (h : ∀ k, k < m → s.answerAt k = .ok) (he : s.answerAt m = .err e) :
    runPlan plan s = .failed e (performFailed op ((performAll (plan.take m) s).setSeq (.pos n))) := by
  induction plan generalizing s m with
  | nil => simp at hm
  | cons x rest ih =>
    obtain ⟨n', op'⟩ := x
    cases m with
    | zero =>
      obtain ⟨rfl, rfl⟩ : n' = n ∧ op' = op := by simpa using hm
      have h0 : (s.setSeq (.pos n')).answerAt 0 = .err e := he
      simp only [runPlan, perform_err op' h0, List.take_zero, performAll]
    | succ m =>
      have h0 : (s.setSeq (.pos n')).answerAt 0 = .ok := h 0 (by omega)
      simp only [runPlan, perform_ok op' h0, List.take_succ_cons, performAll]
      exact ih m (by simpa using hm) (fun k hk => (performed_answerAt op' s n' k).trans (h (k + 1) (by omega)))
        ((performed_answerAt op' s n' m).trans he)

section performAll

variable (plan : List (Fin 58 × LineOp)) (s : State)

/-- Successful line operations change neither `OUT` nor `INIT` nor `RES` nor what the host will send (R114). -/
theorem performAll_unchanged : (performAll plan s).out = s.out ∧ (performAll plan s).init = s.init ∧
    (performAll plan s).res = s.res ∧ (performAll plan s).host = s.host := by
  induction plan generalizing s with
  | nil => simp [performAll]
  | cons x rest ih => exact ih _

/-- `OUT` does not change during a cycle (R114). -/
@[simp] theorem performAll_out : (performAll plan s).out = s.out := (performAll_unchanged plan s).1
@[simp] theorem performAll_init : (performAll plan s).init = s.init := (performAll_unchanged plan s).2.1
@[simp] theorem performAll_res : (performAll plan s).res = s.res := (performAll_unchanged plan s).2.2.1
@[simp] theorem performAll_host : (performAll plan s).host = s.host := (performAll_unchanged plan s).2.2.2

/-- Each line operation is counted. -/
@[simp] theorem performAll_ops : (performAll plan s).ops = s.ops + plan.length := by
  induction plan generalizing s with
  | nil => rfl
  | cons x rest ih =>
    obtain ⟨n, op⟩ := x
    simp only [performAll, ih, performed, State.setSeq_ops, List.length_cons]; omega

/-- Each line operation uses up one answer of the pin layer. -/
@[simp] theorem performAll_pins : (performAll plan s).pins = s.pins.drop plan.length := by
  induction plan generalizing s with
  | nil => rfl
  | cons x rest ih =>
    obtain ⟨n, op⟩ := x
    simp only [performAll, ih, performed, State.setSeq_pins, List.length_cons]
    simp [List.drop_tail]

/-- Each line operation is recorded, in order (R61c). -/
@[simp] theorem performAll_trace : (performAll plan s).trace = s.trace ++ tokensOf plan s := by
  induction plan generalizing s with
  | nil => simp [performAll, tokensOf]
  | cons x rest ih =>
    obtain ⟨n, op⟩ := x
    simp only [performAll, ih, performed, State.setSeq_trace, tokensOf, List.append_assoc, List.singleton_append]

/-- The record of a list of operations has one token each. -/
@[simp] theorem tokensOf_length : (tokensOf plan s).length = plan.length := by
  induction plan generalizing s with
  | nil => rfl
  | cons x rest ih => simp [tokensOf, ih]

/-- Line registers over a longer trace. -/
theorem levelAfter_cons (L : Line) (old : LineLevel) (k : Token) (rest : List Token) :
    levelAfter L old (k :: rest) = levelAfter L (levelAfter L old [k]) rest := by
  cases k <;> rfl

/-- The line registers hold what the trace says was driven last (R31). -/
theorem performAll_lvl (L : Line) : (performAll plan s).lvl L = levelAfter L (s.lvl L) (tokensOf plan s) := by
  induction plan generalizing s with
  | nil => rfl
  | cons x rest ih =>
    obtain ⟨n, op⟩ := x
    have hs : (s.setSeq (.pos n)).lvl L = s.lvl L := State.lvl_congr rfl rfl rfl L
    rw [performAll, ih, performed_lvl, hs, tokensOf]
    exact (levelAfter_cons L (s.lvl L) _ _).symm

/-- A list of operations performed in two parts. -/
theorem performAll_append (more : List (Fin 58 × LineOp)) :
    performAll (plan ++ more) s = performAll more (performAll plan s) := by
  induction plan generalizing s with
  | nil => rfl
  | cons x rest ih => exact ih _

/-- The record of a list of operations performed in two parts. -/
theorem tokensOf_append (more : List (Fin 58 × LineOp)) :
    tokensOf (plan ++ more) s = tokensOf plan s ++ tokensOf more (performAll plan s) := by
  induction plan generalizing s with
  | nil => rfl
  | cons x rest ih => simp only [List.cons_append, tokensOf, performAll, ih]

end performAll

/-- Taking the exception (R188): what it sets, and that it leaves `OUT`, the lines and the record as they are. -/
theorem raisePinFault_spec (e : PinError) (s : State) :
    raisePinFault e s = { s with input := noSamples, seq := .idle, res := .err e } := rfl

/-! ### The samples -/

/-- The cell of `IN` a line operation reads into, if it is a read. -/
def LineOp.cell : LineOp → Option (Fin 8)
  | .drive _ _ => none
  | .data _ => none
  | .read i => some i

/-- The cells of `IN` that a list of operations reads into, in order. -/
def cellsRead (plan : List (Fin 58 × LineOp)) : List (Fin 8) := plan.filterMap fun x => x.2.cell

/-- The token a line operation leaves when `OUT` is `out` and the samples are `ins`. -/
def LineOp.token (out : Vector Bool 16) (ins : Vector Bool 8) : LineOp → Token
  | .drive L v => .drove L v
  | .data i => .drove .sdo (lv out[i])
  | .read i => .read ins[i]

/-- A cell that is not read into keeps what it holds. -/
theorem performAll_input_of_not_read (plan : List (Fin 58 × LineOp)) (s : State) (i : Fin 8) (h : i ∉ cellsRead plan) :
    (performAll plan s).input[i] = s.input[i] := by
  induction plan generalizing s with
  | nil => rfl
  | cons x rest ih =>
    obtain ⟨n, op⟩ := x
    cases op with
    | drive L v => exact ih _ (by simpa [cellsRead, LineOp.cell] using h)
    | data j => exact ih _ (by simpa [cellsRead, LineOp.cell] using h)
    | read j =>
      obtain ⟨hij, hr⟩ : i ≠ j ∧ i ∉ cellsRead rest := by simpa [cellsRead, LineOp.cell] using h
      refine (ih _ hr).trans ?_
      have : (j : Nat) ≠ i := fun e => hij (Fin.ext e.symm)
      simp [performed, inputNow, this]

/-- A cell that is read into holds a value afterwards. -/
theorem performAll_input_of_read (plan : List (Fin 58 × LineOp)) (s : State) (i : Fin 8) (h : i ∈ cellsRead plan) :
    ∃ b, (performAll plan s).input[i] = some b := by
  induction plan generalizing s with
  | nil => simp [cellsRead] at h
  | cons x rest ih =>
    obtain ⟨n, op⟩ := x
    by_cases hr : i ∈ cellsRead rest
    · exact ih _ hr
    · rw [performAll, performAll_input_of_not_read rest _ i hr]
      cases op with
      | drive L v => exact absurd (by simpa [cellsRead, LineOp.cell] using h) hr
      | data j => exact absurd (by simpa [cellsRead, LineOp.cell] using h) hr
      | read j =>
        have hij : i = j := by
          rcases (by simpa [cellsRead, LineOp.cell] using h : i = j ∨ i ∈ cellsRead rest) with h | h
          · exact h
          · exact absurd h hr
        subst hij
        exact ⟨bit (s.env.level s.ops (s.lvlSdo.level .sdo)), by simp [performed, inputNow]⟩

/-- With the samples named by what `IN` holds at the end, the record is the operations' tokens one by one. -/
theorem tokensOf_eq (plan : List (Fin 58 × LineOp)) (s : State) (ins : Vector Bool 8) (hd : (cellsRead plan).Nodup)
    (h : ∀ i ∈ cellsRead plan, (performAll plan s).input[i] = some ins[i]) :
    tokensOf plan s = plan.map fun x => x.2.token s.out ins := by
  induction plan generalizing s with
  | nil => rfl
  | cons x rest ih =>
    obtain ⟨n, op⟩ := x
    cases op with
    | drive L v =>
      simp only [cellsRead, List.filterMap_cons, LineOp.cell] at hd h
      simp only [tokensOf, List.map_cons]
      exact congrArg₂ _ rfl (ih _ hd h)
    | data j =>
      simp only [cellsRead, List.filterMap_cons, LineOp.cell] at hd h
      simp only [tokensOf, List.map_cons]
      exact congrArg₂ _ rfl (ih _ hd h)
    | read j =>
      simp only [cellsRead, List.filterMap_cons, LineOp.cell, List.nodup_cons] at hd h
      have hj := h j (by simp)
      rw [performAll, performAll_input_of_not_read rest _ j hd.1] at hj
      simp only [performed, inputNow, Fin.getElem_fin, Vector.getElem_set_self, Option.some.injEq] at hj
      simp only [tokensOf, List.map_cons]
      refine congrArg₂ _ ?_ (ih _ hd.2 fun i hi => h i (by simp [cellsRead] at hi ⊢; exact .inr hi))
      simp only [tokenNow, LineOp.token, hj, Fin.getElem_fin]

/-- The record of a list of operations with distinct reads, for samples that exist. -/
theorem tokensOf_exists (plan : List (Fin 58 × LineOp)) (s : State) (hd : (cellsRead plan).Nodup) :
    ∃ ins : Vector Bool 8, (tokensOf plan s = plan.map fun x => x.2.token s.out ins) ∧
      ∀ i ∈ cellsRead plan, (performAll plan s).input[i] = some ins[i] := by
  have key : ∀ i ∈ cellsRead plan, (performAll plan s).input[i] =
      some ((Vector.ofFn fun i : Fin 8 => ((performAll plan s).input[i]).getD false) : Vector Bool 8)[i] := by
    intro i hi
    obtain ⟨b, hb⟩ := performAll_input_of_read plan s i hi
    simp only [Fin.getElem_fin] at hb ⊢
    simp [hb]
  exact ⟨_, tokensOf_eq plan s _ hd key, key⟩

end Sys2Proof.Machine
end

