-- ==== Sys2Proof/Laws/Cycle.lean ====
section
/-! SUPPORT. What one cycle does, said once: complete when the pin layer answers `Ok` to all 58 operations, stopped at
the first that fails otherwise; and there is no third case. -/

namespace Sys2Proof.Machine

/-- The plan has 58 operations (R72). -/
@[simp] theorem cyclePlan_length : cyclePlan.length = 58 := by decide

/-- The plan reads into the eight cells of `IN` in ascending order, each once (R27, R55). -/
theorem cellsRead_cyclePlan : cellsRead cyclePlan = [0, 1, 2, 3, 4, 5, 6, 7] := by decide

/-- The frame of R72 is what the plan's operations leave in the trace. -/
theorem cyclePlan_tokens (out : Vector Bool 16) (ins : Vector Bool 8) :
    (cyclePlan.map fun x => x.2.token out ins) = frame out ins := by
  simp [cyclePlan, samplingSlots, plainSlots, samplingSlot, plainSlot, LineOp.token, frame, samplingTokens, plainTokens]

/-- Each operation of the plan carries its own position (R33). -/
theorem cyclePlan_position (n : Fin 58) : ∃ op, cyclePlan[n.val]? = some (n, op) := by
  have h : ∀ n : Fin 58, (cyclePlan[n.val]?).map Prod.fst = some n := by decide +kernel
  obtain ⟨x, hx, hn⟩ := Option.map_eq_some_iff.1 (h n)
  exact ⟨x.2, by rw [hx, ← hn]⟩

/-- The frame has 58 tokens (R72). -/
@[simp] theorem frame_length (out : Vector Bool 16) (ins : Vector Bool 8) : (frame out ins).length = 58 := by
  simp [frame, samplingTokens, plainTokens]

/-- `CLK` rests high after a frame (R106, R111). -/
theorem levelAfter_frame_clk (out : Vector Bool 16) (ins : Vector Bool 8) (old : LineLevel) :
    levelAfter .clk old (frame out ins) = .driven .high := by
  simp [frame, samplingTokens, plainTokens, levelAfter]

/-- `LATCH` rests high after a frame (R111). -/
theorem levelAfter_frame_latch (out : Vector Bool 16) (ins : Vector Bool 8) (old : LineLevel) :
    levelAfter .latch old (frame out ins) = .driven .high := by
  simp [frame, samplingTokens, plainTokens, levelAfter]

/-- `SDO` rests at `lv(OUT[15])` after a frame (R111). -/
theorem levelAfter_frame_sdo (out : Vector Bool 16) (ins : Vector Bool 8) (old : LineLevel) :
    levelAfter .sdo old (frame out ins) = .driven (lv out[15]) := by
  simp [frame, samplingTokens, plainTokens, levelAfter]

/-- The 58 operations, all successful, leave a frame in the trace and a sample in every cell of `IN`. -/
theorem performAll_input_full (s : State) :
    ∃ ins : Vector Bool 8, tokensOf cyclePlan s = frame s.out ins ∧ ∀ i : Fin 8, (performAll cyclePlan s).input[i] = some ins[i] := by
  obtain ⟨ins, ht, hi⟩ := tokensOf_exists cyclePlan s (by rw [cellsRead_cyclePlan]; decide)
  rw [cyclePlan_tokens] at ht
  refine ⟨ins, ht, fun i => hi i ?_⟩
  rw [cellsRead_cyclePlan]
  revert i
  decide

/-- Every cycle either completes or faults at a first position (R186, R189). -/
theorem noPinFault_or_faultAt (s : State) : s.NoPinFault ∨ ∃ n e, s.FaultAt n e := by
  by_cases h : s.NoPinFault
  · exact .inl h
  · right
    have hex : ∃ k, k < 58 ∧ s.answerAt k ≠ .ok := by
      simpa only [State.NoPinFault, not_forall, exists_prop] using h
    classical
    obtain ⟨hk, hne⟩ := Nat.find_spec hex
    have hmin : ∀ j, j < Nat.find hex → s.answerAt j = .ok := by
      intro j hj
      by_contra hc
      exact Nat.find_min hex hj ⟨by omega, hc⟩
    cases ha : s.answerAt (Nat.find hex) with
    | ok => exact absurd ha hne
    | err e => exact ⟨⟨Nat.find hex, hk⟩, e, hmin, ha⟩

/-- The state after the 58 line operations of a cycle over `s`, all successful, before `SEQ` becomes idle. -/
def finished (s : State) : State := performAll cyclePlan (s.setInput noSamples)

/-- A cycle whose 58 operations all succeed (R100, R111): the frame is in the trace, the eight samples stand in `IN`, and
nothing but the cycle's own state has changed. -/
theorem cycle_complete {s : State} (h : s.NoPinFault) :
    ∃ ins : Vector Bool 8, (∀ i : Fin 8, (finished s).input[i] = some ins[i]) ∧
      cycle s = .done { s.afterCycle ins (finished s).env with input := ins.map some, seq := .idle } := by
  obtain ⟨ins, ht, hi⟩ := performAll_input_full (s.setInput noSamples)
  refine ⟨ins, hi, ?_⟩
  have hrun : runPlan cyclePlan (s.setInput noSamples) = .done (finished s) :=
    runPlan_ok _ fun k hk => h k (by simpa using hk)
  have hl : ∀ L, (finished s).lvl L = levelAfter L (s.lvl L) (frame s.out ins) := by
    intro L
    rw [finished, performAll_lvl, ht]
    exact congrArg (fun x => levelAfter L x _) (State.lvl_congr rfl rfl rfl L)
  have hin : (finished s).input = ins.map some := by
    ext i hi8
    have := hi ⟨i, hi8⟩
    simp only [Fin.getElem_fin] at this
    simp [finished, this]
  simp only [cycle, hrun, Attempt.done.injEq]
  rw [State.mk.injEq]
  refine ⟨by simp [State.afterCycle, finished], by simp [hin], ?_, ?_, ?_, rfl, by simp [State.afterCycle, finished],
    by simp [State.afterCycle, finished], by simp [State.afterCycle, finished], by simp [State.afterCycle, finished],
    by simp [State.afterCycle], by simp [State.afterCycle, finished], by simp [State.afterCycle, finished, ht]⟩
  · exact (hl .clk).trans (levelAfter_frame_clk _ _ _)
  · exact (hl .latch).trans (levelAfter_frame_latch _ _ _)
  · exact (hl .sdo).trans (levelAfter_frame_sdo _ _ _)

/-- The line driven at position `n` of a frame, if one is. -/
def lineAt (n : Fin 58) (out : Vector Bool 16) (ins : Vector Bool 8) : Option Line :=
  match (frame out ins)[n.val]? with
  | some (.drove L _) => some L
  | some (.read _) => none
  | some (.fault _) => none
  | none => none

/-- The plan's operation at `n` drives the line that the frame's token at `n` names. -/
theorem cyclePlan_line {n : Fin 58} {op : LineOp} (h : cyclePlan[n.val]? = some (n, op)) (out : Vector Bool 16)
    (ins : Vector Bool 8) : op.line = lineAt n out ins := by
  have ht : (frame out ins)[n.val]? = some (op.token out ins) := by
    rw [← cyclePlan_tokens, List.getElem?_map, h]; rfl
  rw [lineAt, ht]
  cases op <;> rfl

/-- The state of the block when the cycle over `s` has stopped at position `n` (R188, R190), before the exception is
taken, given the samples and the environment. -/
def State.stoppedAt (s : State) (n : Fin 58) (ins : Vector Bool 8) (cells : Vector (Option Bool) 8) (env : Environment) : State :=
  { s with
    lvlClk := if lineAt n s.out ins = some .clk then .failed (s.ops + n) else levelAfter .clk s.lvlClk ((frame s.out ins).take n),
    lvlLatch := if lineAt n s.out ins = some .latch then .failed (s.ops + n)
      else levelAfter .latch s.lvlLatch ((frame s.out ins).take n),
    lvlSdo := if lineAt n s.out ins = some .sdo then .failed (s.ops + n) else levelAfter .sdo s.lvlSdo ((frame s.out ins).take n),
    input := cells, seq := .pos n, pins := s.pins.drop (n + 1), ops := s.ops + n + 1, env := env,
    trace := s.trace ++ (frame s.out ins).take n ++ [.fault (.pos n)] }

/-- The state in which a cycle over `s` attempts the operation at position `n`, all operations before it successful. -/
def attempting (s : State) (n : Fin 58) : State := (performAll (cyclePlan.take n) (s.setInput noSamples)).setSeq (.pos n)

/-- A cycle in which the operation at `n` is the first to fail (R115, R188, R189, R190), with what the environment makes
of the failure (R223). -/
theorem cycle_fault {s : State} {n : Fin 58} {e : PinError} {op : LineOp} (hop : cyclePlan[n.val]? = some (n, op))
    (h : s.FaultAt n e) : ∃ ins cells, cycle s = .failed e (s.stoppedAt n ins cells (envFailed op (attempting s n))) := by
  have hnd : (cellsRead (cyclePlan.take n)).Nodup := by
    have : (cellsRead (cyclePlan.take n)).Sublist (cellsRead cyclePlan) := (List.take_sublist _ _).filterMap _
    exact this.nodup (by rw [cellsRead_cyclePlan]; decide)
  obtain ⟨ins, ht, -⟩ := tokensOf_exists (cyclePlan.take n) (s.setInput noSamples) hnd
  rw [List.map_take, cyclePlan_tokens] at ht
  have hrun := runPlan_fault cyclePlan (s := s.setInput noSamples) n.val hop h.1 h.2
  have hlen : (cyclePlan.take n.val).length = n.val := by simp
  have hl : ∀ L, ((performAll (cyclePlan.take n) (s.setInput noSamples)).setSeq (.pos n)).lvl L =
      levelAfter L (s.lvl L) ((frame s.out ins).take n) := by
    intro L
    refine (performAll_lvl _ _ L).trans ?_
    rw [ht]
    exact congrArg (fun x => levelAfter L x _) (State.lvl_congr rfl rfl rfl L)
  refine ⟨ins, (attempting s n).input, ?_⟩
  simp only [cycle, hrun, Attempt.failed.injEq, true_and]
  rw [State.mk.injEq]
  have hline := cyclePlan_line hop s.out ins
  refine ⟨by simp [performFailed, State.stoppedAt], rfl, ?_, ?_, ?_, rfl, by simp [performFailed, State.stoppedAt],
    by simp [performFailed, State.stoppedAt], by simp [performFailed, State.stoppedAt], ?_, rfl, ?_, ?_⟩
  · simp only [performFailed, hline, State.setSeq_ops, performAll_ops, hlen, State.stoppedAt, State.setInput_ops]
    exact ite_congr rfl (fun _ => rfl) fun _ => hl .clk
  · simp only [performFailed, hline, State.setSeq_ops, performAll_ops, hlen, State.stoppedAt, State.setInput_ops]
    exact ite_congr rfl (fun _ => rfl) fun _ => hl .latch
  · simp only [performFailed, hline, State.setSeq_ops, performAll_ops, hlen, State.stoppedAt, State.setInput_ops]
    exact ite_congr rfl (fun _ => rfl) fun _ => hl .sdo
  · simp [performFailed, State.stoppedAt, hlen]
  · simp only [performFailed, State.setSeq_ops, performAll_ops, hlen, State.stoppedAt, State.setInput_ops]
  · simp [performFailed, State.stoppedAt, ht]

end Sys2Proof.Machine
end

