-- ==== Sys2Proof/Laws/Commands.lean ====
section
/-! SUPPORT. What `exec` does, said once for all nineteen commands: when a command is accepted, what it writes to `OUT`
before its cycle, and what it does at the end of it. -/

namespace Sys2Proof.Machine

/-- `OUT` when the cycle of a command begins (R58, R65). -/
def written (i : Instr) (out : Vector Bool 16) : Vector Bool 16 :=
  match i with
  | .new => allOff
  | .d1 b => writeCell out 0 b
  | .d2 b => writeCell out 1 b
  | .d3 b => writeCell out 2 b
  | .d4 b => writeCell out 3 b
  | .d5 b => writeCell out 4 b
  | .d6 b => writeCell out 5 b
  | .d7 b => writeCell out 6 b
  | .d8 b => writeCell out 7 b
  | .d9 b => writeCell out 8 b
  | .seg p => writeSegments out p
  | .s1 | .s2 | .s3 | .s4 | .s5 | .s6 | .s7 | .s8 => out

/-- The cell of `IN` a command returns, if it is a getter (R182). -/
def returned (i : Instr) : Option (Fin 8) :=
  match i with
  | .s1 => some 0
  | .s2 => some 1
  | .s3 => some 2
  | .s4 => some 3
  | .s5 => some 4
  | .s6 => some 5
  | .s7 => some 6
  | .s8 => some 7
  | .new | .d1 _ | .d2 _ | .d3 _ | .d4 _ | .d5 _ | .d6 _ | .d7 _ | .d8 _ | .d9 _ | .seg _ => none

/-- What a command does when its cycle is complete. -/
def onDone (i : Instr) (t : State) : State :=
  match returned i with
  | some k => t.setRes (resultOf t.input[k])
  | none => if i = .new then (t.setInit true).setRes .ok else t.setRes .ok

/-- What a command does after the exception of its cycle has been taken. -/
def onFault (i : Instr) (t : State) : State := if i = .new then noDriver t else t

/-- Every command that is accepted answers a next state: `OUT` written, one cycle, the end of the command. -/
theorem exec_of_accepts {i : Instr} {s : State} (h : s.Accepts i) :
    exec i s = .next (endCommand (onDone i) (onFault i) (cycle (s.setOut (written i s.out)))) := by
  obtain ⟨hs, hi⟩ := h
  cases i with
  | new => simp only [exec, execNew, whenIdle, hs]; rfl
  | _ =>
    have hinit : s.init = true := by simpa using hi
    simp only [exec, execD1, execD2, execD3, execD4, execD5, execD6, execD7, execD8, execD9, execSeg, execS1, execS2,
      execS3, execS4, execS5, execS6, execS7, execS8, setIndicator, getButton, whenReady, hs, hinit]
    rfl

/-- A command during a cycle is refused (R225). -/
theorem exec_of_busy (i : Instr) {s : State} {n : Fin 58} (h : s.seq = .pos n) : exec i s = .refused .cycleInProgress := by
  cases i <;>
    simp only [exec, execNew, execD1, execD2, execD3, execD4, execD5, execD6, execD7, execD8, execD9, execSeg, execS1,
      execS2, execS3, execS4, execS5, execS6, execS7, execS8, setIndicator, getButton, whenReady, whenIdle, h]

/-- A command other than `NEW` on a block that is not constructed is refused (R35). -/
theorem exec_of_unconstructed {i : Instr} {s : State} (hi : i ≠ .new) (hs : s.seq = .idle) (h : s.init = false) :
    exec i s = .refused .notConstructed := by
  cases i with
  | new => exact absurd rfl hi
  | _ =>
    simp only [exec, execD1, execD2, execD3, execD4, execD5, execD6, execD7, execD8, execD9, execSeg, execS1, execS2,
      execS3, execS4, execS5, execS6, execS7, execS8, setIndicator, getButton, whenReady, hs, h]

/-- A command answers a next state only if it is accepted. -/
theorem accepts_of_exec {i : Instr} {s t : State} (h : exec i s = .next t) : s.Accepts i := by
  cases hs : s.seq with
  | pos n => rw [exec_of_busy i hs] at h; cases h
  | idle =>
    refine ⟨hs, ?_⟩
    by_cases hi : i = .new
    · exact .inl hi
    · cases hb : s.init with
      | true => exact .inr rfl
      | false => rw [exec_of_unconstructed hi hs hb] at h; cases h

/-- The writes of a command, cell by cell (R22). -/
theorem written_cell (i : Instr) (out : Vector Bool 16) (c : Fin 16) : (written i out)[c] = (i.writes c).getD out[c] := by
  cases i with
  | new => revert c; simp [written, allOff, Instr.writes, Fin.forall_fin_succ]
  | seg p => revert c; simp [written, writeSegments, Instr.writes, Fin.forall_fin_succ]
  | _ => revert c; simp [written, writeCell, Instr.writes, Fin.forall_fin_succ, Vector.getElem_set]

/-- The state a command begins its cycle with (R59, R65). -/
def begun (i : Instr) (s : State) : State := s.setOut (written i s.out)

/-- The result of a command whose cycle was complete with samples `ins` (R36). -/
def resultWith (i : Instr) (ins : Vector Bool 8) : Res :=
  match returned i with
  | some k => .okBit ins[k]
  | none => .ok

/-- An accepted command whose cycle meets no pin fault: the state it answers, in full (R140, R145, R160, R170). -/
theorem exec_success {i : Instr} {s : State} (ha : s.Accepts i) (hn : s.NoPinFault) :
    ∃ ins : Vector Bool 8, (∀ k : Fin 8, (finished (begun i s)).input[k] = some ins[k]) ∧
      exec i s = .next { (begun i s).afterCycle ins (finished (begun i s)).env with init := true, res := resultWith i ins } := by
  obtain ⟨ins, hi, hc⟩ := cycle_complete (s := begun i s) hn
  refine ⟨ins, hi, ?_⟩
  rw [exec_of_accepts ha, ← begun, hc]
  obtain ⟨hs, hb⟩ := ha
  have hseq : ((begun i s).afterCycle ins (finished (begun i s)).env).seq = .idle := hs
  rw [Host.Outcome.next.injEq, State.mk.injEq]
  refine ⟨?_, ?_, ?_, ?_, ?_, ?_, ?_, ?_, ?_, ?_, ?_, ?_, ?_⟩ <;>
    (cases i <;> simp_all [endCommand, onDone, returned, resultWith, resultOf, State.afterCycle, begun])

/-- An accepted command whose cycle meets its first pin fault at `n`: the state it answers, in full (R188, R223). -/
theorem exec_faulted {i : Instr} {s : State} {n : Fin 58} {e : PinError} {op : LineOp} (ha : s.Accepts i)
    (hf : s.FaultAt n e) (hop : cyclePlan[n.val]? = some (n, op)) :
    ∃ ins cells, exec i s = .next (onFault i (raisePinFault e
      ((begun i s).stoppedAt n ins cells (envFailed op (attempting (begun i s) n))))) := by
  obtain ⟨ins, cells, hc⟩ := cycle_fault (s := begun i s) hop hf
  exact ⟨ins, cells, by rw [exec_of_accepts ha, ← begun, hc]; rfl⟩

end Sys2Proof.Machine
end

