-- ==== Sys2Proof/Laws/Decode.lean ====
section
/-! SUPPORT. The rows of the opcode map as ranges of numbers: a mask of R78 keeps every bit but the lowest 0, 1 or 7, so
a word selects a row exactly when its number, less those low bits, is the row's pattern. -/

namespace Sys2Proof

/-- A mask that keeps every bit. -/
theorem and_all (w : Word) : w &&& 0xFFFF#16 = w := by
  ext i hi
  interval_cases i <;> simp

/-- A mask that drops the lowest bit. -/
theorem and_dropOne (w : Word) : w &&& 0xFFFE#16 = (w >>> 1) <<< 1 := by
  ext i hi
  interval_cases i <;> simp

/-- A mask that drops the lowest seven bits. -/
theorem and_dropSeven (w : Word) : w &&& 0xFF80#16 = (w >>> 7) <<< 7 := by
  ext i hi
  interval_cases i <;> simp

/-- Selecting a row without operand. -/
theorem selects_all (w p : Word) : ((w &&& 0xFFFF#16 == p) = true) ↔ w.toNat = p.toNat := by
  rw [and_all, beq_iff_eq, BitVec.toNat_inj]

/-- Selecting a row with a one-bit operand. -/
theorem selects_dropOne (w p : Word) : ((w &&& 0xFFFE#16 == p) = true) ↔ w.toNat / 2 * 2 = p.toNat := by
  rw [and_dropOne, beq_iff_eq, ← BitVec.toNat_inj]
  have := w.isLt
  simp only [BitVec.toNat_shiftLeft, BitVec.toNat_ushiftRight, Nat.shiftLeft_eq, Nat.shiftRight_eq_div_pow]
  rw [Nat.mod_eq_of_lt (by omega)]

/-- Selecting the row with the seven-bit operand. -/
theorem selects_dropSeven (w p : Word) : ((w &&& 0xFF80#16 == p) = true) ↔ w.toNat / 128 * 128 = p.toNat := by
  rw [and_dropSeven, beq_iff_eq, ← BitVec.toNat_inj]
  have := w.isLt
  simp only [BitVec.toNat_shiftLeft, BitVec.toNat_ushiftRight, Nat.shiftLeft_eq, Nat.shiftRight_eq_div_pow]
  rw [Nat.mod_eq_of_lt (by omega)]

/-- The fields of a word as parts of its number (R77). -/
theorem fields_toNat (w : Word) : (Fields.ofWord w).op.toNat = w.toNat / 4096 ∧ (Fields.ofWord w).idx.toNat = w.toNat / 256 % 16 ∧
    (Fields.ofWord w).z.toNat = w.toNat / 128 % 2 ∧ (Fields.ofWord w).arg.toNat = w.toNat % 128 := by
  have := w.isLt
  refine ⟨?_, ?_, ?_, ?_⟩
  · simp only [Fields.ofWord, BitVec.extractLsb'_toNat, Nat.shiftRight_eq_div_pow, Nat.reducePow]; omega
  · simp only [Fields.ofWord, BitVec.extractLsb'_toNat, Nat.shiftRight_eq_div_pow, Nat.reducePow]
  · simp only [Fields.ofWord, BitVec.extractLsb'_toNat, Nat.shiftRight_eq_div_pow, Nat.reducePow]
  · simp only [Fields.ofWord, BitVec.extractLsb'_toNat, Nat.shiftRight_eq_div_pow, Nat.reducePow, Nat.div_one]

end Sys2Proof
end

