-- ==== Sys2Proof/Laws/Environment.lean ====
section
/-! SUPPORT. What a complete cycle does to the environment, and what it reads from it, slot by slot. -/

namespace Sys2Proof.Machine

/-- The environment after sampling slots that send the given bits. -/
def afterSampling (out : Vector Bool 16) (env : Environment) (slots : List (Fin 8)) : Environment :=
  slots.foldl (fun e i => (e.onClkRise (lv (out[i.val]'(by omega)))).afterRead) env

/-- The environment after plain slots that send the given bits. -/
def afterPlain (out : Vector Bool 16) (env : Environment) (slots : List (Fin 8)) : Environment :=
  slots.foldl (fun e j => e.onClkRise (lv (out[8 + j.val]'(by omega)))) env

/-- One sampling slot: the clock rises with the slot's bit on `SDO`, then the read (R104). -/
theorem samplingSlot_env (i : Fin 8) (s : State) :
    (performAll (samplingSlot i) s).env = (s.env.onClkRise (lv (s.out[i.val]'(by omega)))).afterRead := by
  simp [samplingSlot, performAll, performed, envNow, tokenNow, levelAfter, Environment.onDrive, State.lvl, LineLevel.level]

/-- The sample of one sampling slot. -/
theorem samplingSlot_input (i : Fin 8) (s : State) :
    (performAll (samplingSlot i) s).input[i] = some (bit ((s.env.onClkRise (lv (s.out[i.val]'(by omega)))).level (s.ops + 3)
      (lv (s.out[i.val]'(by omega))))) := by
  simp [samplingSlot, performAll, performed, envNow, inputNow, tokenNow, levelAfter, Environment.onDrive, State.lvl,
    LineLevel.level]

/-- One plain slot: the clock rises with the slot's bit on `SDO`. -/
theorem plainSlot_env (j : Fin 8) (s : State) :
    (performAll (plainSlot j) s).env = s.env.onClkRise (lv (s.out[8 + j.val]'(by omega))) := by
  simp [plainSlot, performAll, performed, envNow, tokenNow, levelAfter, Environment.onDrive, State.lvl, LineLevel.level]

/-- No slot drives `LATCH` (R107). -/
theorem samplingSlot_latch (i : Fin 8) (s : State) : (performAll (samplingSlot i) s).lvlLatch = s.lvlLatch := by
  simp [samplingSlot, performAll, performed, tokenNow, levelAfter]

/-- No slot drives `LATCH` (R107). -/
theorem plainSlot_latch (j : Fin 8) (s : State) : (performAll (plainSlot j) s).lvlLatch = s.lvlLatch := by
  simp [plainSlot, performAll, performed, tokenNow, levelAfter]

/-- Sampling slots in a row. -/
theorem samplingSlots_env (slots : List (Fin 8)) (s : State) :
    (performAll (slots.flatMap samplingSlot) s).env = afterSampling s.out s.env slots ∧
      (performAll (slots.flatMap samplingSlot) s).lvlLatch = s.lvlLatch := by
  induction slots generalizing s with
  | nil => exact ⟨rfl, rfl⟩
  | cons i rest ih =>
    rw [List.flatMap_cons, performAll_append]
    obtain ⟨h1, h2⟩ := ih (performAll (samplingSlot i) s)
    rw [h1, h2, samplingSlot_env, performAll_out, samplingSlot_latch]
    exact ⟨rfl, rfl⟩

/-- Plain slots in a row. -/
theorem plainSlots_env (slots : List (Fin 8)) (s : State) :
    (performAll (slots.flatMap plainSlot) s).env = afterPlain s.out s.env slots ∧
      (performAll (slots.flatMap plainSlot) s).lvlLatch = s.lvlLatch := by
  induction slots generalizing s with
  | nil => exact ⟨rfl, rfl⟩
  | cons i rest ih =>
    rw [List.flatMap_cons, performAll_append]
    obtain ⟨h1, h2⟩ := ih (performAll (plainSlot i) s)
    rw [h1, h2, plainSlot_env, performAll_out, plainSlot_latch]
    exact ⟨rfl, rfl⟩

/-- The state after the prologue of a cycle over `s`. -/
def opened (s : State) : State := performed (.drive .latch .low) ((s.setInput noSamples).setSeq (.pos 0))

/-- The prologue drives `LATCH` low and tells the environment so. -/
theorem opened_spec (s : State) : (opened s).out = s.out ∧ (opened s).env = s.env.onLatchLow ∧
    (opened s).lvlLatch = .driven .low ∧ (opened s).ops = s.ops + 1 := by
  simp [opened, performed, envNow, tokenNow, levelAfter, Environment.onDrive]

/-- The environment at the moment the epilogue is attempted, and that `LATCH` is low then (R107, R108): `LATCH` low, eight
sampling slots, eight plain slots. -/
theorem attempting_epilogue (s : State) : (attempting s 57).lvlLatch = .driven .low ∧ (attempting s 57).env =
    afterPlain s.out (afterSampling s.out s.env.onLatchLow [0, 1, 2, 3, 4, 5, 6, 7]) [0, 1, 2, 3, 4, 5, 6, 7] := by
  obtain ⟨ho, he, hl, -⟩ := opened_spec s
  obtain ⟨a1, a2⟩ := samplingSlots_env [0, 1, 2, 3, 4, 5, 6, 7] (opened s)
  obtain ⟨b1, b2⟩ := plainSlots_env [0, 1, 2, 3, 4, 5, 6, 7] (performAll samplingSlots (opened s))
  have hp : attempting s 57 = (performAll plainSlots (performAll samplingSlots (opened s))).setSeq (.pos 57) := by
    have hc : cyclePlan.take (57 : Fin 58).val = (0, .drive .latch .low) :: (samplingSlots ++ plainSlots) := by decide +kernel
    rw [attempting, hc, performAll, ← opened, performAll_append]
  rw [hp, State.setSeq_lvlLatch, State.setSeq_env]
  exact ⟨by rw [plainSlots, b2, samplingSlots, a2, hl],
    by rw [plainSlots, b1, performAll_out, samplingSlots, a1, ho, he]⟩

/-- The environment after a complete cycle: `LATCH` low, eight sampling slots, eight plain slots, the rise of `LATCH`. -/
theorem finished_env (s : State) : (finished s).env =
    (afterPlain s.out (afterSampling s.out s.env.onLatchLow [0, 1, 2, 3, 4, 5, 6, 7]) [0, 1, 2, 3, 4, 5, 6, 7]).onLatchRise := by
  obtain ⟨hl, he⟩ := attempting_epilogue s
  have hp : finished s = performed (.drive .latch .high) (attempting s 57) := by
    have hc : cyclePlan = cyclePlan.take (57 : Fin 58).val ++ [(57, .drive .latch .high)] := by decide +kernel
    rw [finished, hc, performAll_append, attempting, performAll, performAll]
  simp only [hp, performed, envNow, State.lvl, hl, LineLevel.level, Environment.onDrive, he]

/-- What the read of slot `i` of a complete cycle gives: the level the environment presents after the clock rise of the
slot, at the line operation numbered 4+4i of the cycle (R102, R103). -/
theorem finished_sample (s : State) (i : Fin 8) : (finished s).input[i] = some (bit
    (((afterSampling s.out s.env.onLatchLow (([0, 1, 2, 3, 4, 5, 6, 7] : List (Fin 8)).take i)).onClkRise
      (lv (s.out[i.val]'(by omega)))).level (s.ops + 4 + 4 * i.val) (lv (s.out[i.val]'(by omega))))) := by
  obtain ⟨ho, he, -, hop⟩ := opened_spec s
  have hsplit : ∀ i : Fin 8, ([0, 1, 2, 3, 4, 5, 6, 7] : List (Fin 8)) =
      ([0, 1, 2, 3, 4, 5, 6, 7] : List (Fin 8)).take i ++ i :: ([0, 1, 2, 3, 4, 5, 6, 7] : List (Fin 8)).drop (i + 1) := by
    decide
  have hlater : ∀ i : Fin 8, i ∉ cellsRead (((([0, 1, 2, 3, 4, 5, 6, 7] : List (Fin 8)).drop (i + 1)).flatMap samplingSlot) ++
      (plainSlots ++ [(57, .drive .latch .high)])) := by decide +kernel
  have hlen : ∀ i : Fin 8, ((([0, 1, 2, 3, 4, 5, 6, 7] : List (Fin 8)).take i).flatMap samplingSlot).length = 4 * i.val := by
    decide +kernel
  have hp : finished s = performAll (samplingSlots ++ (plainSlots ++ [(57, .drive .latch .high)])) (opened s) := rfl
  rw [hp, samplingSlots, hsplit i, List.flatMap_append, List.flatMap_cons, List.append_assoc, List.append_assoc,
    performAll_append, performAll_append, performAll_input_of_not_read _ _ i (hlater i), samplingSlot_input,
    performAll_out, (samplingSlots_env _ _).1, performAll_ops, hlen]
  simp only [← hsplit i, ho, he, hop, Option.some.injEq]
  congr 2
  omega

end Sys2Proof.Machine
end

