-- ==== Sys2Proof/Laws/PerInstr.lean ====
section
/-! SUPPORT. Statements about every command as syntax, one lemma per constructor: the fields of the encoded word are the
fields R77 gives the command, and they break no field rule. -/

namespace Sys2Proof.Laws.EncodedFields

/-- The word of the command has the command's fields (R77, R78), and they are well-formed. -/
def Statement (i : Instr) : Prop := Fields.ofWord (encode i) = i.fields ∧ i.wellFormed = true

theorem new : Statement .new := by unfold Statement; decide
theorem d1 (state : Bool) : Statement (.d1 state) := by unfold Statement; revert state; decide
theorem d2 (state : Bool) : Statement (.d2 state) := by unfold Statement; revert state; decide
theorem d3 (state : Bool) : Statement (.d3 state) := by unfold Statement; revert state; decide
theorem d4 (state : Bool) : Statement (.d4 state) := by unfold Statement; revert state; decide
theorem d5 (state : Bool) : Statement (.d5 state) := by unfold Statement; revert state; decide
theorem d6 (state : Bool) : Statement (.d6 state) := by unfold Statement; revert state; decide
theorem d7 (state : Bool) : Statement (.d7 state) := by unfold Statement; revert state; decide
theorem d8 (state : Bool) : Statement (.d8 state) := by unfold Statement; revert state; decide
theorem d9 (state : Bool) : Statement (.d9 state) := by unfold Statement; revert state; decide

/-- A pattern is its seven bits. -/
theorem pattern_cases (p : Pattern) : ∃ a b c d e f g, p = #v[a, b, c, d, e, f, g] := by
  refine ⟨p[0], p[1], p[2], p[3], p[4], p[5], p[6], ?_⟩
  ext i hi
  interval_cases i <;> rfl

theorem seg (p : Pattern) : Statement (.seg p) := by
  obtain ⟨a, b, c, d, e, f, g, rfl⟩ := pattern_cases p
  unfold Statement
  revert a b c d e f g
  decide +kernel

theorem s1 : Statement .s1 := by unfold Statement; decide
theorem s2 : Statement .s2 := by unfold Statement; decide
theorem s3 : Statement .s3 := by unfold Statement; decide
theorem s4 : Statement .s4 := by unfold Statement; decide
theorem s5 : Statement .s5 := by unfold Statement; decide
theorem s6 : Statement .s6 := by unfold Statement; decide
theorem s7 : Statement .s7 := by unfold Statement; decide
theorem s8 : Statement .s8 := by unfold Statement; decide

end Sys2Proof.Laws.EncodedFields
end

