-- ==== Sys2Proof/Tests/Slice0.lean ====
section
/-! SUPPORT. Tests. Every expected value is written out from spec/: the words from R77 and R78, the results, traces and
lines from the vectors of 95_test_vectors.md. Each test of a command is one step on a small state. The witnesses at the
end meet the hypotheses of the statements. -/

-- One theorem after another: the kernel's evaluations side by side would only take more memory.
set_option Elab.async false

namespace Sys2Proof.Tests

open Sys2Proof.Machine

/-! ### Well-formedness: an ill-formed term for each check -/

theorem test_wf_accepts : (Fields.wellFormed { op := 1, idx := 8, z := 0, arg := 1 }) = true := by decide
theorem test_wf_opcode : (Fields.problem { op := 4, idx := 0, z := 0, arg := 0 }) = some .opcode := by decide
theorem test_wf_index_setter : (Fields.problem { op := 1, idx := 9, z := 0, arg := 0 }) = some .index := by decide
theorem test_wf_index_getter : (Fields.problem { op := 3, idx := 8, z := 0, arg := 0 }) = some .index := by decide
theorem test_wf_index_seg : (Fields.problem { op := 2, idx := 1, z := 0, arg := 48 }) = some .index := by decide
theorem test_wf_zeroBit : (Fields.problem { op := 2, idx := 0, z := 1, arg := 0 }) = some .zeroBit := by decide
theorem test_wf_argument_setter : (Fields.problem { op := 1, idx := 0, z := 0, arg := 2 }) = some .argument := by decide
theorem test_wf_argument_getter : (Fields.wellFormed { op := 3, idx := 0, z := 0, arg := 1 }) = false := by decide

/-! ### Decoding: op, idx, z and arg written out bit by bit (R77, R78) -/

theorem test_decode_new : decode 0b0000_0000_0_0000000 = .command .new := by decide
theorem test_decode_d1 : decode 0b0001_0000_0_0000001 = .command (.d1 true) := by decide
theorem test_decode_d2 : decode 0b0001_0001_0_0000000 = .command (.d2 false) := by decide
theorem test_decode_d3 : decode 0b0001_0010_0_0000001 = .command (.d3 true) := by decide
theorem test_decode_d4 : decode 0b0001_0011_0_0000000 = .command (.d4 false) := by decide
theorem test_decode_d5 : decode 0b0001_0100_0_0000001 = .command (.d5 true) := by decide
theorem test_decode_d6 : decode 0b0001_0101_0_0000000 = .command (.d6 false) := by decide
theorem test_decode_d7 : decode 0b0001_0110_0_0000001 = .command (.d7 true) := by decide
theorem test_decode_d8 : decode 0b0001_0111_0_0000000 = .command (.d8 false) := by decide
theorem test_decode_d9 : decode 0b0001_1000_0_0000001 = .command (.d9 true) := by decide
theorem test_decode_seg : decode 0b0010_0000_0_0110000 =
    .command (.seg #v[false, false, false, false, true, true, false]) := by decide
theorem test_decode_seg_low : decode 0b0010_0000_0_0000001 =
    .command (.seg #v[true, false, false, false, false, false, false]) := by decide
theorem test_decode_s1 : decode 0b0011_0000_0_0000000 = .command .s1 := by decide
theorem test_decode_s2 : decode 0b0011_0001_0_0000000 = .command .s2 := by decide
theorem test_decode_s3 : decode 0b0011_0010_0_0000000 = .command .s3 := by decide
theorem test_decode_s4 : decode 0b0011_0011_0_0000000 = .command .s4 := by decide
theorem test_decode_s5 : decode 0b0011_0100_0_0000000 = .command .s5 := by decide
theorem test_decode_s6 : decode 0b0011_0101_0_0000000 = .command .s6 := by decide
theorem test_decode_s7 : decode 0b0011_0110_0_0000000 = .command .s7 := by decide
theorem test_decode_s8 : decode 0b0011_0111_0_0000000 = .command .s8 := by decide

/-- T7: bit 7 set. -/
theorem test_reserved_2080 : decode 0x2080 = .reserved .zeroBit := by decide
/-- T7: `idx` not 0. -/
theorem test_reserved_2130 : decode 0x2130 = .reserved .index := by decide
/-- T8: `idx` = 8. -/
theorem test_reserved_3800 : decode 0x3800 = .reserved .index := by decide
/-- T8: a bit of `arg`. -/
theorem test_reserved_3001 : decode 0x3001 = .reserved .argument := by decide
/-- R81: `op` in 4..15. -/
theorem test_reserved_F000 : decode 0xF000 = .reserved .opcode := by decide
/-- R86: `SEG.ONE` is the word 0x2030. -/
theorem test_segOne_word : encode (expandDisplay .one) = 0x2030 := by decide
/-- R85: the example of the syntax. -/
theorem test_segOne_assembly : (expandDisplay .one).assembly = "SEG 0b0110000" := by decide
/-- The word placed is the one the host sends next, and nothing else changes. -/
theorem test_fetchWord : State.reset.withFetchWord 16 0x3700 = { State.reset with host := [0x3700] } := by decide +kernel

theorem test_tableWord : decodeTableWord 16 0x3700 = some .s8 := by decide

/-! ### Small states -/

/-- The pin layer answers `Ok` to a whole cycle. -/
def allOk : List PinAnswer := List.replicate 58 .ok

/-- The pin layer fails at position `n`. -/
def failsAt (n : Nat) : List PinAnswer := List.replicate n .ok ++ [.err ⟨7⟩]

/-- Power-on with a host, a pin layer and an environment. -/
def atPowerOn (word : Word) (pins : List PinAnswer) (env : Environment) : State :=
  { State.reset with host := [word], pins := pins, env := env }

/-- A constructed block at rest, lines high, high, low. -/
def ready (out : Vector Bool 16) (word : Word) (pins : List PinAnswer) (env : Environment) : State :=
  { atPowerOn word pins env with
    out := out, lvlClk := .driven .high, lvlLatch := .driven .high, lvlSdo := .driven .low, init := true, res := .ok }

/-- `OUT` whose packed word is `w` (R13). -/
def outOf (w : Word) : Vector Bool 16 :=
  #v[w.getLsbD 0, w.getLsbD 1, w.getLsbD 2, w.getLsbD 3, w.getLsbD 4, w.getLsbD 5, w.getLsbD 6, w.getLsbD 7,
     w.getLsbD 8, w.getLsbD 9, w.getLsbD 10, w.getLsbD 11, w.getLsbD 12, w.getLsbD 13, w.getLsbD 14, w.getLsbD 15]

/-- What a test sees of the state after a step. -/
def seen {α : Type} (view : State → α) (s : State) : Option α :=
  match step s with
  | .next t => some (view t)
  | .fault _ => none
  | .refused _ => none

/-- The refusal a step ends in. -/
def refusal (s : State) : Option Refusal :=
  match step s with
  | .next _ => none
  | .fault _ => none
  | .refused r => some r

/-- `OUTW`, `RES` and the three lines. -/
def summary (t : State) : Word × Res × LineLevel × LineLevel × LineLevel :=
  (t.outW, t.res, t.lvlClk, t.lvlLatch, t.lvlSdo)

/-- The lines `high/high/low`. -/
def atRest (w : Word) (r : Res) : Option (Word × Res × LineLevel × LineLevel × LineLevel) :=
  some (w, r, .driven .high, .driven .high, .driven .low)

abbrev lm : Token := .drove .latch .low
abbrev lp : Token := .drove .latch .high
abbrev cm : Token := .drove .clk .low
abbrev cp : Token := .drove .clk .high
abbrev d0 : Token := .drove .sdo .low
abbrev d1 : Token := .drove .sdo .high
abbrev r0 : Token := .read false
abbrev r1 : Token := .read true

/-- The buttons of T4 and T8. -/
def buttonsT8 : Environment := .buttons #v[false, false, true, false, false, true, false, true] 0

/-! ### `NEW` (T1, T2) -/

theorem test_new_trace : seen State.trace (atPowerOn 0x0000 allOk (.const .low)) = some
    ([lm] ++ (List.replicate 8 [cm, d0, cp, r0]).flatten ++ (List.replicate 8 [cm, d0, cp]).flatten ++ [lp]) := by
  decide +kernel

theorem test_new_state : seen (fun t => (summary t, t.init, t.seq)) (atPowerOn 0x0000 allOk (.const .high)) =
    (atRest 0x0000 .ok).map fun x => (x, true, .idle) := by decide +kernel

/-- P4: a fault at position 0 leaves the block unconstructed. -/
theorem test_new_fault : seen (fun t => (t.init, t.res, t.trace)) (atPowerOn 0x0000 (failsAt 0) (.const .low)) =
    some (false, .err ⟨7⟩, [.fault (.pos 0)]) := by decide +kernel

/-- P4: a setter before a successful `NEW` is refused. -/
theorem test_d1_before_new : refusal (atPowerOn 0x1001 allOk (.const .low)) = some .notConstructed := by decide +kernel

/-- T7: a reserved word is refused. -/
theorem test_reserved_refused : refusal (ready allOff 0x2080 allOk (.const .low)) = some (.reservedWord .zeroBit) := by
  decide +kernel

/-! ### Indicator setters (T6): `OUTW` and the position of the one `D1` -/

theorem test_d1 : seen (fun t => (t.outW, t.trace[2]?, t.trace.count d1)) (ready allOff 0x1001 allOk (.const .low)) =
    some (0x1, some d1, 1) := by decide +kernel
theorem test_d2 : seen (fun t => (t.outW, t.trace[6]?, t.trace.count d1)) (ready allOff 0x1101 allOk (.const .low)) =
    some (0x2, some d1, 1) := by decide +kernel
theorem test_d3 : seen (fun t => (t.outW, t.trace[10]?, t.trace.count d1)) (ready allOff 0x1201 allOk (.const .low)) =
    some (0x4, some d1, 1) := by decide +kernel
theorem test_d4 : seen (fun t => (t.outW, t.trace[14]?, t.trace.count d1)) (ready allOff 0x1301 allOk (.const .low)) =
    some (0x8, some d1, 1) := by decide +kernel
theorem test_d5 : seen (fun t => (t.outW, t.trace[18]?, t.trace.count d1)) (ready allOff 0x1401 allOk (.const .low)) =
    some (0x10, some d1, 1) := by decide +kernel
theorem test_d6 : seen (fun t => (t.outW, t.trace[22]?, t.trace.count d1)) (ready allOff 0x1501 allOk (.const .low)) =
    some (0x20, some d1, 1) := by decide +kernel
theorem test_d7 : seen (fun t => (t.outW, t.trace[26]?, t.trace.count d1)) (ready allOff 0x1601 allOk (.const .low)) =
    some (0x40, some d1, 1) := by decide +kernel
theorem test_d8 : seen (fun t => (t.outW, t.trace[30]?, t.trace.count d1)) (ready allOff 0x1701 allOk (.const .low)) =
    some (0x80, some d1, 1) := by decide +kernel
theorem test_d9 : seen (fun t => (t.outW, t.trace[34]?, t.trace.count d1)) (ready allOff 0x1801 allOk (.const .low)) =
    some (0x100, some d1, 1) := by decide +kernel

/-- T6 corner case: writing the value already held still runs a whole cycle. -/
theorem test_d9_same : seen (fun t => (t.outW, t.trace.length)) (ready allOff 0x1800 allOk (.const .low)) = some (0x0000, 58) := by
  decide +kernel

/-- T7: `SEG.ONE` then `D9 1` gives 0x3100. -/
theorem test_d9_after_segOne : seen State.outW (ready (outOf 0x3000) 0x1801 allOk (.const .low)) = some 0x3100 := by
  decide +kernel

/-- T16a: the write of a setter stays after a fault. -/
theorem test_d3_fault : seen (fun t => (t.outW, t.res)) (ready (outOf 0x0033) 0x1201 (failsAt 19) (.const .low)) =
    some (0x0037, .err ⟨7⟩) := by decide +kernel

/-! ### Segment setter (T7) -/

theorem test_segOne : seen summary (ready allOff 0x2030 allOk (.const .low)) = atRest 0x3000 .ok := by decide +kernel

theorem test_seg_all : seen State.outW (ready (outOf 0x01FF) 0x207F allOk (.const .low)) = some 0x7FFF := by decide +kernel

/-! ### Button getters (T4, T8) -/

/-- The trace of T4. -/
theorem test_s3_trace : seen State.trace (ready (outOf 0x3005) 0x3200 allOk buttonsT8) = some
    ([lm, cm, d1, cp, r0, cm, d0, cp, r0, cm, d1, cp, r1, cm, d0, cp, r0, cm, d0, cp, r0, cm, d0, cp, r1]
      ++ [cm, d0, cp, r0, cm, d0, cp, r1, cm, d0, cp, cm, d0, cp, cm, d0, cp, cm, d0, cp, cm, d1, cp, cm, d1, cp]
      ++ [cm, d0, cp, cm, d0, cp, lp]) := by decide +kernel

theorem test_s1 : seen summary (ready (outOf 0x3005) 0x3000 allOk buttonsT8) = atRest 0x3005 (.okBit false) := by
  decide +kernel
theorem test_s2 : seen summary (ready (outOf 0x3005) 0x3100 allOk buttonsT8) = atRest 0x3005 (.okBit false) := by
  decide +kernel
theorem test_s3 : seen summary (ready (outOf 0x3005) 0x3200 allOk buttonsT8) = atRest 0x3005 (.okBit true) := by
  decide +kernel
theorem test_s4 : seen summary (ready (outOf 0x3005) 0x3300 allOk buttonsT8) = atRest 0x3005 (.okBit false) := by
  decide +kernel
theorem test_s5 : seen summary (ready (outOf 0x3005) 0x3400 allOk buttonsT8) = atRest 0x3005 (.okBit false) := by
  decide +kernel
theorem test_s6 : seen summary (ready (outOf 0x3005) 0x3500 allOk buttonsT8) = atRest 0x3005 (.okBit true) := by
  decide +kernel
theorem test_s7 : seen summary (ready (outOf 0x3005) 0x3600 allOk buttonsT8) = atRest 0x3005 (.okBit false) := by
  decide +kernel
theorem test_s8 : seen summary (ready (outOf 0x3005) 0x3700 allOk buttonsT8) = atRest 0x3005 (.okBit true) := by
  decide +kernel

/-! ### Faults (T9 to T15): the lines after the fault, and how many tokens -/

theorem test_fault_T9 : seen (fun t => (summary t, t.trace.length)) (ready (outOf 0x0033) 0x3000 (failsAt 0) (.const .low)) =
    some ((0x0033, .err ⟨7⟩, .driven .high, .failed 0, .driven .low), 1) := by decide +kernel
theorem test_fault_T10 : seen (fun t => (summary t, t.trace.length)) (ready (outOf 0x0033) 0x3000 (failsAt 4) (.const .low)) =
    some ((0x0033, .err ⟨7⟩, .driven .high, .driven .low, .driven .high), 5) := by decide +kernel
theorem test_fault_T11 : seen (fun t => (summary t, t.trace.length)) (ready (outOf 0x0033) 0x3000 (failsAt 17) (.const .low)) =
    some ((0x0033, .err ⟨7⟩, .failed 17, .driven .low, .driven .low), 18) := by decide +kernel
theorem test_fault_T12 : seen (fun t => (summary t, t.trace.length)) (ready (outOf 0x0033) 0x3000 (failsAt 19) (.const .low)) =
    some ((0x0033, .err ⟨7⟩, .failed 19, .driven .low, .driven .high), 20) := by decide +kernel
theorem test_fault_T13 : seen (fun t => (summary t, t.trace.length)) (ready (outOf 0x0033) 0x3000 (failsAt 20) (.const .low)) =
    some ((0x0033, .err ⟨7⟩, .driven .high, .driven .low, .driven .high), 21) := by decide +kernel
theorem test_fault_T14 : seen (fun t => (summary t, t.trace.length)) (ready (outOf 0x0033) 0x3000 (failsAt 33) (.const .low)) =
    some ((0x0033, .err ⟨7⟩, .failed 33, .driven .low, .driven .low), 34) := by decide +kernel
theorem test_fault_T15 : seen (fun t => (summary t, t.trace.length)) (ready (outOf 0x0033) 0x3000 (failsAt 57) (.const .low)) =
    some ((0x0033, .err ⟨7⟩, .driven .high, .failed 57, .driven .low), 58) := by decide +kernel

/-- The trace of T12. -/
theorem test_fault_trace_T12 : seen State.trace (ready (outOf 0x0033) 0x3000 (failsAt 19) (.const .low)) = some
    [lm, cm, d1, cp, r0, cm, d1, cp, r0, cm, d0, cp, r0, cm, d0, cp, r0, cm, d1, .fault (.pos 19)] := by decide +kernel

/-! ### Loopback (T17 to T20) and the reference chain (T21): the eight samples are in the trace -/

theorem test_loop_T17 : seen (fun t => readsOf t.trace) (ready (outOf 0xF1CD) 0x3000 allOk (.loop [])) =
    some [true, false, true, true, false, false, true, true] := by decide +kernel
theorem test_loop_T18 : seen (fun t => readsOf t.trace) (ready (outOf 0xF1CD) 0x3000 allOk (.loop [false])) =
    some [true, false, true, true, false, false, true, true] := by decide +kernel
theorem test_loop_T19 : seen (fun t => readsOf t.trace) (ready (outOf 0xF1CD) 0x3000 allOk (.loop [false, false])) =
    some [false, true, false, true, true, false, false, true] := by decide +kernel
theorem test_loop_T20 : seen (fun t => readsOf t.trace) (ready (outOf 0xF1CD) 0x3000 allOk (.loop [false, false, false])) =
    some [false, false, true, false, true, true, false, false] := by decide +kernel

theorem test_chain_T21 : seen State.env (ready (outOf 0x3005) 0x3000 allOk (.chain16 allOff (outOf 0xFFFF))) =
    some (.chain16
      #v[false, false, true, true, false, false, false, false, false, false, false, false, false, true, false, true]
      #v[false, false, true, true, false, false, false, false, false, false, false, false, false, true, false, true]) := by
  decide +kernel

/-- T21, the aborted cycle: four bits shifted, the outputs as before. -/
theorem test_chain_T21_aborted : seen State.env (ready (outOf 0x3005) 0x3000 (failsAt 19) (.chain16 allOff (outOf 0xFFFF))) =
    some (.chain16 (outOf 0x000A) (outOf 0xFFFF)) := by decide +kernel

/-- The state of a test's line operation. -/
def stateLeft : Attempt → State
  | .done t => t
  | .failed _ t => t

/-- A failed drive of `LATCH` from low to high (R190, R223): the commit is free. -/
theorem test_chain_commit_in_doubt :
    (stateLeft (drive .latch .high { ready allOff 0 (failsAt 0) (.chain16 (outOf 0xA00C) allOff) with
      lvlLatch := .driven .low })).env =
    (if Config.failedCommit 0 then .chain16 (outOf 0xA00C) (outOf 0xA00C) else .chain16 (outOf 0xA00C) allOff) := rfl

theorem test_launch_aliased : (match launch 1 2 3 2 with | .refused r => some r | .next _ => none | .fault r => nomatch r) =
    some .aliasedPins := by decide +kernel

/-! ### Witnesses: states and operands that meet the hypotheses of the statements -/

/-- A constructed block whose next cycle succeeds. -/
def calm (env : Environment) : State := ready (outOf 0x3005) 0x3200 allOk env

/-- A constructed block whose next cycle fails first at `n`. -/
def faulty (n : Nat) : State := ready (outOf 0x0033) 0x3000 (failsAt n) (.chain16 allOff allOff)

theorem calm_ready : (calm buttonsT8).Ready ∧ (calm buttonsT8).NoPinFault := by decide +kernel

/-- At every position, the two ends among them. -/
theorem faulty_at (n : Fin 58) : (faulty n).FaultAt n ⟨7⟩ := by revert n; decide +kernel

theorem faulty_ready (n : Fin 58) : (faulty n).Ready := ⟨rfl, rfl⟩

theorem calm_accepts (i : Instr) (env : Environment) : (calm env).Accepts i := ⟨rfl, .inr rfl⟩

theorem faulty_accepts (i : Instr) (n : Fin 58) : (faulty n).Accepts i := ⟨rfl, .inr rfl⟩

theorem calm_next (i : Instr) (env : Environment) : ∃ t, exec i (calm env) = .next t := ⟨_, exec_of_accepts (calm_accepts i env)⟩

theorem faulty_next (i : Instr) (n : Fin 58) : ∃ t, exec i (faulty n) = .next t := ⟨_, exec_of_accepts (faulty_accepts i n)⟩

theorem witness_EncodeDecodeAgree : decode 0x207F = .command (.seg #v[true, true, true, true, true, true, true]) := by decide

theorem witness_OpcodeRowsDisjoint : ∃ r ∈ commandTable, r.selects 0x1801 = true := by decide

theorem witness_StepRunsDecodedCommand : (calm buttonsT8).host = [0x3200] ∧ decode 0x3200 = .command .s3 := by decide

theorem witness_StepRefusesReservedWord :
    (ready allOff 0x2080 allOk buttonsT8).host = [0x2080] ∧ decode 0x2080 = .reserved .zeroBit := by decide

theorem witness_StepWithoutCommandIdles : State.reset.host = [] := rfl

theorem witness_FetchWordRunsNext : 0x3700 < 2 ^ 16 ∧ decodeTableWord 16 0x3700 = some .s8 := by decide

theorem witness_RefusedUntilConstructed :
    (∃ t, exec .new (calm buttonsT8) = .next t) ∧ (calm buttonsT8).NoPinFault
    ∧ (∃ t, exec .new (faulty 57) = .next t) ∧ (faulty 57).FaultAt 57 ⟨7⟩
    ∧ (∃ t, exec (.d9 true) (calm buttonsT8) = .next t)
    ∧ Instr.d9 true ≠ .new ∧ State.reset.seq = .idle ∧ State.reset.init = false :=
  ⟨calm_next _ _, calm_ready.2, faulty_next _ 57, faulty_at 57, calm_next _ _, by decide, rfl, rfl⟩

theorem witness_RefusedDuringCycle : ({ calm buttonsT8 with seq := .pos 57 } : State).seq = .pos 57 := rfl

/-- `NEW` from power-on with the pin layer answering `Ok`, and with a fault at the last position. -/
theorem witness_NewConstructs : (atPowerOn 0x0000 allOk (.const .low)).seq = .idle
    ∧ (atPowerOn 0x0000 allOk (.const .low)).NoPinFault ∧ (atPowerOn 0x0000 allOk (.const .low)).env = .const .low
    ∧ (atPowerOn 0x0000 (failsAt 57) (.const .low)).FaultAt 57 ⟨7⟩ := by decide +kernel

theorem witness_FailedNewLeavesNoDriver : (atPowerOn 0x0000 (failsAt 0) (.const .low)).seq = .idle
    ∧ (atPowerOn 0x0000 (failsAt 0) (.const .low)).FaultAt 0 ⟨7⟩ := by decide +kernel

/-- For each clause of the setters: ready and calm, ready and faulty (first and last position), not constructed. -/
theorem witness_SettersWriteAndCycle : (calm buttonsT8).Ready ∧ (calm buttonsT8).NoPinFault ∧ (faulty 0).Ready
    ∧ (faulty 0).FaultAt 0 ⟨7⟩ ∧ (faulty 57).FaultAt 57 ⟨7⟩ ∧ State.reset.seq = .idle ∧ State.reset.init = false :=
  ⟨calm_ready.1, calm_ready.2, ⟨rfl, rfl⟩, faulty_at 0, faulty_at 57, rfl, rfl⟩

/-- The same for `SEG`, and the example after `NEW`. -/
theorem witness_SegWritesAndCycles : (ready allOff 0x2030 allOk (.const .low)).Ready
    ∧ (ready allOff 0x2030 allOk (.const .low)).NoPinFault ∧ (ready allOff 0x2030 allOk (.const .low)).out = allOff
    ∧ (faulty 57).Ready ∧ (faulty 57).FaultAt 57 ⟨7⟩ ∧ State.reset.seq = .idle ∧ State.reset.init = false := by
  decide +kernel

/-- The same for the getters, and the buttons attached. -/
theorem witness_GettersReturnTheirSample : (calm buttonsT8).Ready ∧ (calm buttonsT8).NoPinFault
    ∧ (calm buttonsT8).env = .buttons #v[false, false, true, false, false, true, false, true] 0
    ∧ (faulty 40).Ready ∧ (faulty 40).FaultAt 40 ⟨7⟩ ∧ State.reset.seq = .idle ∧ State.reset.init = false :=
  ⟨calm_ready.1, calm_ready.2, rfl, ⟨rfl, rfl⟩, faulty_at 40, rfl, rfl⟩

theorem witness_CommandFrame : (∃ t, exec (.seg (resolve .one)) (calm buttonsT8) = .next t)
    ∧ (∃ t, exec .s8 (faulty 32) = .next t) ∧ ∃ t, exec .new (faulty 0) = .next t :=
  ⟨calm_next _ _, faulty_next _ 32, faulty_next _ 0⟩

theorem witness_WritersIgnoreSamples : (∀ k, Instr.d4 true ≠ buttonGetter k) ∧ ∃ t, exec (.d4 true) (calm buttonsT8) = .next t :=
  ⟨by decide, calm_next _ _⟩

/-- Eight scripted levels; the getters at both ends have a level of their own. -/
theorem witness_OracleLevelsAreSampled :
    let levels : List Level := [.high, .low, .low, .low, .low, .low, .low, .high]
    (calm (.oracle levels)).Ready ∧ (calm (.oracle levels)).NoPinFault ∧ (calm (.oracle levels)).env = .oracle levels
    ∧ levels[0]? = some .high ∧ levels[7]? = some .high := by decide +kernel

theorem witness_GettersDoNotRevealOut : (calm (.oracle [])).env = .oracle [] ∧ ∃ t, exec (buttonGetter 7) (calm (.oracle [])) = .next t :=
  ⟨rfl, calm_next _ _⟩

/-- Both answers of the pin layer: `DriveIsOneLineOperation` and `SampleIsOneLineOperation`. -/
theorem witness_lineOperation : (calm buttonsT8).answerAt 0 = .ok ∧ (faulty 0).answerAt 0 = .err ⟨7⟩ := by decide +kernel

/-- `Accepts` and `NoPinFault` together: `SuccessSendsOneFrame`, `OperationCounts`, `LatchFramesTheCycle`, `ClockEdges`,
`LatchEdges`, `LinesRestAfterSuccess`. -/
theorem witness_success : (calm buttonsT8).Accepts (.d1 true) ∧ (calm buttonsT8).NoPinFault
    ∧ (atPowerOn 0x0000 allOk (.const .low)).Accepts .new ∧ (atPowerOn 0x0000 allOk (.const .low)).NoPinFault := by
  decide +kernel

/-- The last clause of `LinesRestAfterSuccess`. -/
theorem witness_LinesRestAfterSuccess : (calm buttonsT8).init = true ∧ (calm buttonsT8).out[15] = false := by decide

/-- The sequencer before the first data drive, the first clock rise and the first read, and before the last clock rise. -/
theorem witness_EdgeDiscipline :
    cyclePlan[2]? = some (2, .data 0) ∧ cyclePlan[3]? = some (3, .drive .clk .high) ∧ cyclePlan[4]? = some (4, .read 0)
    ∧ cyclePlan[56]? = some (56, .drive .clk .high)
    ∧ ∀ m, ∃ t, runPlan (cyclePlan.take m) (calm buttonsT8) = .done t :=
  ⟨by decide, by decide, by decide, by decide, fun m =>
    ⟨_, runPlan_ok _ fun k hk => calm_ready.2 k (by simp at hk; omega)⟩⟩

theorem witness_EarlierLevelsDoNotMatter : (calm buttonsT8).NoPinFault := calm_ready.2

theorem witness_TraceIsNeverRead : ∃ t, exec .s1 (faulty 19) = .next t := faulty_next _ 19

/-- `PinFaultEntry` and `LinesAfterFault`, at every position: a prologue, clock, data and read position of both kinds of
slot, and the epilogue. -/
theorem witness_PinFaultEntry (i : Instr) (n : Fin 58) : (faulty n).Accepts i ∧ (faulty n).FaultAt n ⟨7⟩ :=
  ⟨faulty_accepts i n, faulty_at n⟩

/-- The positions that the clauses of `LinesAfterFault` speak of exist: slot 0 and slot 15, and the read of slot 7. -/
theorem witness_LinesAfterFault : dataPosition 0 = 2 ∧ dataPosition 7 = 30 ∧ dataPosition 8 = 34 ∧ dataPosition 15 = 55
    ∧ readPosition 0 = 4 ∧ readPosition 7 = 32 := by decide

/-- The faulty block is ready, and the state after its fault can meet no further fault. -/
theorem witness_FaultLeavesBlockUsable : Instr.d3 true ≠ .new ∧ (faulty 19).Ready ∧ (faulty 19).FaultAt 19 ⟨7⟩
    ∧ ∃ t, exec (.d3 true) { faulty 19 with pins := failsAt 19 ++ allOk } = .next t ∧ t.NoPinFault :=
  ⟨by decide, ⟨rfl, rfl⟩, faulty_at 19, _, rfl, by decide +kernel⟩

theorem witness_ErrorIsNeverInspected : (faulty 19).FaultAt 19 ⟨7⟩ ∧ 19 < (faulty 19).pins.length
    ∧ ∃ t, exec .s2 (faulty 19) = .next t := ⟨faulty_at 19, by decide, faulty_next _ 19⟩

theorem witness_LastWriteWins : .new ∉ [Instr.d3 true, .d3 false, .s1, .d3 true] ∧ (calm buttonsT8).Ready := by decide

theorem witness_SharedCellHasTwoWriters : (ready allOff 0x1801 allOk (.const .low)).Ready
    ∧ (ready allOff 0x1801 allOk (.const .low)).out = allOff ∧ .new ∉ [Instr.seg (resolve .one), .d9 false]
    ∧ ∀ j ∈ [Instr.d3 true, .s8], j ≠ .new ∧ (∀ v, j ≠ .d9 v) ∧ ∀ q, j ≠ .seg q :=
  ⟨⟨rfl, rfl⟩, rfl, by decide, by simp⟩

theorem witness_ReservedCellStaysFalse : (∃ t, exec (.d9 true) (calm buttonsT8) = .next t) ∧ (calm buttonsT8).NoPinFault
    ∧ (calm buttonsT8).out[15] = false := ⟨calm_next _ _, calm_ready.2, by decide⟩

theorem witness_PowerLossUnconstructs : Instr.s1 ≠ .new := by decide

/-- The two sides of `LaunchNeedsDistinctPins`. -/
theorem witness_LaunchNeedsDistinctPins : ((0 : Nat) ≠ 1 ∧ (0 : Nat) ≠ 2 ∧ (0 : Nat) ≠ 3 ∧ (1 : Nat) ≠ 2 ∧ (1 : Nat) ≠ 3 ∧ (2 : Nat) ≠ 3)
    ∧ (1 : Nat) = 1 := by decide

/-- The step of the block at rest is `S3`, the host's next word. -/
theorem calm_step : step (calm buttonsT8) = exec .s3 ((calm buttonsT8).setHost []) := by
  have h : decode 0x3200 = .command .s3 := by decide
  simp only [step, nextCommand, calm, ready, atPowerOn, h]

/-- The invariant holds of a constructed block at rest, and a step goes on from it. -/
theorem witness_StepKeepsInvariant : (calm buttonsT8).Inv ∧ ∃ t, step (calm buttonsT8) = .next t :=
  ⟨⟨rfl, rfl, fun _ => by decide, fun _ => by decide, fun _ => ⟨rfl, rfl, rfl, rfl⟩, fun e h => by simp [calm, ready] at h,
    rfl, fun L n h => by cases L <;> simp [calm, ready, State.lvl] at h⟩,
    by rw [calm_step]; exact ⟨_, exec_of_accepts ⟨rfl, .inr rfl⟩⟩⟩

/-- One step from power-on: `NEW` is issued and completes. -/
theorem witness_ReachedStatesMeetInvariant :
    ∃ t, core.run 1 { State.reset with host := [0x0000], pins := allOk, env := buttonsT8 } = .next t ∧ t.init = true :=
  ⟨_, rfl, by decide +kernel⟩

theorem witness_ChainHoldsOutReversed : (calm (.chain16 allOff allOff)).Accepts (.d1 true)
    ∧ (calm (.chain16 allOff allOff)).NoPinFault ∧ (calm (.chain16 allOff allOff)).env = .chain16 allOff allOff :=
  ⟨calm_accepts _ _, calm_ready.2, rfl⟩

theorem witness_FaultLeavesChainOutputs (n : Fin 58) : (faulty n).Accepts .s1 ∧ (faulty n).FaultAt n ⟨7⟩
    ∧ (faulty n).env = .chain16 allOff allOff ∧ (56 : Fin 58).val < 57 ∧ (57 : Fin 58).val = 57 :=
  ⟨faulty_accepts _ n, faulty_at n, rfl, by decide, rfl⟩

/-- The repair: with answers for a second cycle behind the failure at 57, the next command meets no fault. -/
theorem witness_FaultLeavesChainOutputs_repair :
    seen (fun t => decide (t.Accepts .s1 ∧ t.NoPinFault)) (ready (outOf 0x0033) 0x3000 (failsAt 57 ++ allOk)
      (.chain16 allOff allOff)) = some true := by decide +kernel

/-- No stage; as many stages as the first and the last read allow; more stages than slots. -/
theorem witness_LoopbackReturnsSentBits (st : List Bool) : (calm (.loop st)).Ready ∧ (calm (.loop st)).NoPinFault
    ∧ (calm (.loop st)).env = .loop st ∧ (1 ≤ [true].length ∧ [true].length ≤ (0 : Fin 8).val + 1)
    ∧ (7 : Fin 8).val + 1 < (List.replicate 9 true).length := ⟨⟨rfl, rfl⟩, calm_ready.2, rfl, by decide, by decide⟩

theorem witness_ConstantEnvironmentIsSampled : (calm (.const .high)).Ready ∧ (calm (.const .high)).NoPinFault
    ∧ (calm (.const .high)).env = .const .high := ⟨⟨rfl, rfl⟩, calm_ready.2, rfl⟩

end Sys2Proof.Tests
end

section
/-! SUPPORT. The two ends of a command, for every command at once: the state after a complete cycle and the state after
the first pin fault, field by field, and that there is no third. -/

namespace Sys2Proof.Machine

/-- The state an accepted command answers when its cycle is complete, with the samples and the environment it ends with. -/
def afterSuccess (i : Instr) (s : State) (ins : Vector Bool 8) (env : Environment) : State :=
  { (begun i s).afterCycle ins env with init := true, res := resultWith i ins }

/-- The state an accepted command answers when its cycle faults first at position `n` (R188). -/
def afterPinFault (i : Instr) (s : State) (n : Fin 58) (e : PinError) (ins : Vector Bool 8)
    (cells : Vector (Option Bool) 8) (env : Environment) : State :=
  onFault i (raisePinFault e ((begun i s).stoppedAt n ins cells env))

/-- A command that answers a next state was accepted, and it ended in one of two ways. -/
theorem exec_next_cases {i : Instr} {s t : State} (h : exec i s = .next t) :
    s.Accepts i ∧
    ((s.NoPinFault ∧ ∃ ins env, t = afterSuccess i s ins env) ∨
      ∃ n e ins cells env, s.FaultAt n e ∧ t = afterPinFault i s n e ins cells env) := by
  have ha := accepts_of_exec h
  refine ⟨ha, ?_⟩
  rcases noPinFault_or_faultAt s with hn | ⟨n, e, hf⟩
  · obtain ⟨ins, -, ht⟩ := exec_success ha hn
    rw [h, Host.Outcome.next.injEq] at ht
    exact .inl ⟨hn, ins, _, ht⟩
  · obtain ⟨op, hop⟩ := cyclePlan_position n
    obtain ⟨ins, cells, ht⟩ := exec_faulted ha hf hop
    rw [h, Host.Outcome.next.injEq] at ht
    exact .inr ⟨n, e, ins, cells, _, hf, ht⟩

/-- A cycle that meets no pin fault has no first fault. -/
theorem State.NoPinFault.not_faultAt {s : State} (hn : s.NoPinFault) (n : Fin 58) (e : PinError) : ¬ s.FaultAt n e := by
  rintro ⟨-, he⟩
  rw [hn n n.isLt] at he
  cases he

/-! ### After a complete cycle -/

section afterSuccess

variable (i : Instr) (s : State) (ins : Vector Bool 8) (env : Environment)

@[simp] theorem afterSuccess_out : (afterSuccess i s ins env).out = written i s.out := rfl
@[simp] theorem afterSuccess_input : (afterSuccess i s ins env).input = noSamples := rfl
@[simp] theorem afterSuccess_lvlClk : (afterSuccess i s ins env).lvlClk = .driven .high := rfl
@[simp] theorem afterSuccess_lvlLatch : (afterSuccess i s ins env).lvlLatch = .driven .high := rfl
@[simp] theorem afterSuccess_lvlSdo : (afterSuccess i s ins env).lvlSdo = .driven (lv (written i s.out)[15]) := rfl
@[simp] theorem afterSuccess_seq : (afterSuccess i s ins env).seq = s.seq := rfl
@[simp] theorem afterSuccess_init : (afterSuccess i s ins env).init = true := rfl
@[simp] theorem afterSuccess_res : (afterSuccess i s ins env).res = resultWith i ins := rfl
@[simp] theorem afterSuccess_ops : (afterSuccess i s ins env).ops = s.ops + 58 := rfl
@[simp] theorem afterSuccess_trace :
    (afterSuccess i s ins env).trace = s.trace ++ frame (written i s.out) ins := rfl

/-- No line is left unspecified by a complete cycle (R111). -/
theorem afterSuccess_lvl (L : Line) : ∃ v, (afterSuccess i s ins env).lvl L = .driven v := by
  cases L <;> exact ⟨_, rfl⟩

/-- A complete cycle hands back `Ok` or a bit (R36). -/
theorem resultWith_success : resultWith i ins = .ok ∨ ∃ b, resultWith i ins = .okBit b := by
  unfold resultWith
  cases returned i with
  | none => exact .inl rfl
  | some k => exact .inr ⟨_, rfl⟩

end afterSuccess

/-! ### After a pin fault -/

section afterPinFault

variable (i : Instr) (s : State) (n : Fin 58) (e : PinError) (ins : Vector Bool 8) (cells : Vector (Option Bool) 8)
  (env : Environment)

/-- A command other than `NEW` does nothing of its own after the exception (R191, R192). -/
theorem onFault_of_ne_new {i : Instr} (hi : i ≠ .new) (t : State) : onFault i t = t := if_neg hi

/-- What a command does after the exception touches `OUT` and `INIT` at most. -/
theorem onFault_unchanged (t : State) : (onFault i t).input = t.input ∧ (onFault i t).seq = t.seq ∧
    (onFault i t).res = t.res ∧ (onFault i t).ops = t.ops ∧ (onFault i t).trace = t.trace ∧
    ∀ L, (onFault i t).lvl L = t.lvl L := by
  by_cases hi : i = .new
  · subst hi
    exact ⟨rfl, rfl, rfl, rfl, rfl, fun L => State.lvl_congr rfl rfl rfl L⟩
  · simp [onFault_of_ne_new hi]

@[simp] theorem afterPinFault_input : (afterPinFault i s n e ins cells env).input = noSamples := by
  simp [afterPinFault, onFault_unchanged, raisePinFault]
@[simp] theorem afterPinFault_seq : (afterPinFault i s n e ins cells env).seq = .idle := by
  simp [afterPinFault, onFault_unchanged, raisePinFault]
@[simp] theorem afterPinFault_res : (afterPinFault i s n e ins cells env).res = .err e := by
  simp [afterPinFault, onFault_unchanged, raisePinFault]
@[simp] theorem afterPinFault_ops : (afterPinFault i s n e ins cells env).ops = s.ops + n + 1 := by
  simp [afterPinFault, onFault_unchanged, raisePinFault, State.stoppedAt, begun]
@[simp] theorem afterPinFault_trace : (afterPinFault i s n e ins cells env).trace =
    s.trace ++ (frame (written i s.out) ins).take n ++ [Token.fault (.pos n)] := by
  simp [afterPinFault, onFault_unchanged, raisePinFault, State.stoppedAt, begun]

/-- After a fault of `NEW` there is no driver (R141). -/
theorem afterPinFault_new_init : (afterPinFault .new s n e ins cells env).init = false := rfl

/-- A fault of a command other than `NEW` leaves the command's writes to `OUT` (R191) and `INIT` (R192). -/
theorem afterPinFault_of_ne_new {i : Instr} (hi : i ≠ .new) : (afterPinFault i s n e ins cells env).out = written i s.out ∧
    (afterPinFault i s n e ins cells env).init = s.init := by
  rw [afterPinFault, onFault_of_ne_new hi]
  exact ⟨rfl, rfl⟩

/-- Taking the exception leaves the lines as they are (R190). -/
theorem raisePinFault_lvl (t : State) (L : Line) : (raisePinFault e t).lvl L = t.lvl L := State.lvl_congr rfl rfl rfl L

/-- The lines of a cycle that stopped (R190): the one whose drive failed is unspecified, the others are as last driven. -/
theorem State.stoppedAt_lvl (L : Line) : (s.stoppedAt n ins cells env).lvl L =
    if lineAt n s.out ins = some L then .failed (s.ops + n) else levelAfter L (s.lvl L) ((frame s.out ins).take n) := by
  cases L <;> simp only [State.lvl, State.stoppedAt]

/-- The lines after a fault are those of the cycle that stopped. -/
theorem afterPinFault_lvl (L : Line) : (afterPinFault i s n e ins cells env).lvl L =
    if lineAt n (written i s.out) ins = some L then .failed (s.ops + n)
    else levelAfter L (s.lvl L) ((frame (written i s.out) ins).take n) := by
  obtain ⟨-, -, -, -, -, hl⟩ := onFault_unchanged i (raisePinFault e ((begun i s).stoppedAt n ins cells env))
  have hbegun : (begun i s).lvl L = s.lvl L := State.lvl_congr rfl rfl rfl L
  rw [afterPinFault, hl, raisePinFault_lvl, State.stoppedAt_lvl, hbegun, begun, State.setOut_out, State.setOut_ops]

end afterPinFault

/-! ### What a command leaves, however it ended -/

/-- A command whose cycle meets no pin fault ends complete. -/
theorem exec_next_success {i : Instr} {s t : State} (h : exec i s = .next t) (hn : s.NoPinFault) :
    ∃ ins env, t = afterSuccess i s ins env := by
  obtain ⟨-, ⟨-, ht⟩ | ⟨n, e, -, -, -, hf, -⟩⟩ := exec_next_cases h
  · exact ht
  · exact absurd hf (hn.not_faultAt n e)

/-- A command whose cycle faults hands back the pin layer's error (R187, R188). -/
theorem exec_res_of_faultAt {i : Instr} {s t : State} {n : Fin 58} {e : PinError} (h : exec i s = .next t)
    (hf : s.FaultAt n e) : t.res = .err e := by
  obtain ⟨op, hop⟩ := cyclePlan_position n
  obtain ⟨ins, cells, ht⟩ := exec_faulted (accepts_of_exec h) hf hop
  rw [Host.Outcome.next.inj (h.symm.trans ht)]
  exact afterPinFault_res ..

/-- No cycle is in progress after a command (R33, R59). -/
theorem exec_seq {i : Instr} {s t : State} (h : exec i s = .next t) : t.seq = .idle := by
  obtain ⟨ha, ⟨-, ins, env, rfl⟩ | ⟨n, e, ins, cells, env, -, rfl⟩⟩ := exec_next_cases h
  · exact ha.1
  · exact afterPinFault_seq ..

/-- A command other than `NEW` leaves `INIT` as it is (R35, R192). -/
theorem exec_init_of_ne_new {i : Instr} {s t : State} (hi : i ≠ .new) (h : exec i s = .next t) : t.init = s.init := by
  obtain ⟨ha, ⟨-, ins, env, rfl⟩ | ⟨n, e, ins, cells, env, -, rfl⟩⟩ := exec_next_cases h
  · exact (ha.2.resolve_left hi).symm
  · exact (afterPinFault_of_ne_new s n e ins cells env hi).2

/-- A command other than `NEW` leaves its writes in `OUT`, faulted or not (R191). -/
theorem exec_out_of_ne_new {i : Instr} {s t : State} (hi : i ≠ .new) (h : exec i s = .next t) : t.out = written i s.out := by
  obtain ⟨-, ⟨-, ins, env, rfl⟩ | ⟨n, e, ins, cells, env, -, rfl⟩⟩ := exec_next_cases h
  · rfl
  · exact (afterPinFault_of_ne_new s n e ins cells env hi).1

/-- A Ready block accepts every command other than `NEW` and is Ready again, with the command's writes in `OUT`, faulted or
not (R191, R192). -/
theorem exec_ready {i : Instr} {s : State} (hi : i ≠ .new) (hs : s.Ready) :
    ∃ t, exec i s = .next t ∧ t.Ready ∧ t.out = written i s.out := by
  have h := exec_of_accepts (i := i) ⟨hs.1, .inr hs.2⟩
  exact ⟨_, h, ⟨exec_seq h, (exec_init_of_ne_new hi h).trans hs.2⟩, exec_out_of_ne_new hi h⟩

/-! ### The reserved cell -/

/-- No command but `NEW` writes the reserved cell (R23). -/
theorem writes_reservedCell {i : Instr} (hi : i ≠ .new) : i.writes 15 = none := by
  cases i with
  | new => exact absurd rfl hi
  | _ => rfl

/-- The reserved cell when the cycle of a command other than `NEW` begins (R23). -/
theorem written_reservedCell {i : Instr} (hi : i ≠ .new) (out : Vector Bool 16) : (written i out)[15] = out[15] := by
  have h := written_cell i out 15
  rw [writes_reservedCell hi] at h
  exact h

/-- Every accepted command begins its cycle with the reserved cell false, if that cell was false while constructed (R23). -/
theorem written_reservedCell_false {i : Instr} {s : State} (ha : s.Accepts i) (h : s.init = true → s.out[15] = false) :
    (written i s.out)[15] = false := by
  by_cases hi : i = .new
  · subst hi; rfl
  · rw [written_reservedCell hi]
    exact h (ha.2.resolve_left hi)

/-! ### The line registers over a frame -/

/-- A trace leaves a line register as it was, or at a level it drove (R31). -/
theorem levelAfter_eq_or_driven (L : Line) (old : LineLevel) (toks : List Token) :
    levelAfter L old toks = old ∨ ∃ v, levelAfter L old toks = .driven v := by
  induction toks generalizing old with
  | nil => exact .inl rfl
  | cons k rest ih =>
    cases k with
    | drove K v =>
      by_cases hK : K = L
      · rw [levelAfter, if_pos hK]
        exact .inr ((ih (.driven v)).elim (fun h => ⟨v, h⟩) id)
      · rw [levelAfter, if_neg hK]
        exact ih old
    | read b => exact ih old
    | fault q => exact ih old

/-- A trace that does not drive a line leaves its register as it was (R31). -/
theorem levelAfter_of_not_drove {L : Line} {toks : List Token} (old : LineLevel) (h : ∀ v, Token.drove L v ∉ toks) :
    levelAfter L old toks = old := by
  induction toks with
  | nil => rfl
  | cons k rest ih =>
    have hrest := ih fun v hv => h v (List.mem_cons_of_mem _ hv)
    cases k with
    | drove K v =>
      have hK : K ≠ L := fun hK => h v (hK ▸ List.mem_cons_self)
      rw [levelAfter, if_neg hK, hrest]
    | read b => exact hrest
    | fault q => exact hrest

/-- A line operation leaves the token of a drive only if it drives that line (R101). -/
theorem LineOp.line_of_token {op : LineOp} {out : Vector Bool 16} {ins : Vector Bool 8} {L : Line} {v : Level}
    (h : op.token out ins = .drove L v) : op.line = some L := by
  cases op with
  | drive K w => exact congrArg some (Token.drove.inj h).1
  | data i => exact congrArg some (Token.drove.inj h).1
  | read i => cases h

/-- A frame drives `LATCH` low first and high last, and not between (R107). -/
theorem frame_latch_split (out : Vector Bool 16) (ins : Vector Bool 8) :
    ∃ slots : List Token, frame out ins = Token.drove .latch .low :: (slots ++ [Token.drove .latch .high]) ∧
      slots.length = 56 ∧ ∀ v, Token.drove .latch v ∉ slots := by
  have hlen : (samplingSlots ++ plainSlots).length = 56 := by decide
  have hline : ∀ x ∈ samplingSlots ++ plainSlots, x.2.line ≠ some .latch := by decide
  refine ⟨(samplingSlots ++ plainSlots).map fun x => x.2.token out ins, ?_, by rw [List.length_map, hlen], fun v hv => ?_⟩
  · rw [← cyclePlan_tokens, cyclePlan, ← List.append_assoc, List.map_cons, List.map_append]
    rfl
  · obtain ⟨x, hx, ht⟩ := List.mem_map.1 hv
    exact hline x hx (LineOp.line_of_token ht)

/-- Position 0 drives `LATCH` (R103). -/
theorem lineAt_zero (out : Vector Bool 16) (ins : Vector Bool 8) : lineAt 0 out ins = some .latch :=
  (cyclePlan_line (op := .drive .latch .low) rfl out ins).symm

/-- `LATCH` is low from its first drive until its last is attempted (R107). -/
theorem levelAfter_latch_take_frame (out : Vector Bool 16) (ins : Vector Bool 8) (old : LineLevel) {n : Nat} (h0 : n ≠ 0)
    (hn : n < 58) : levelAfter .latch old ((frame out ins).take n) = .driven .low := by
  obtain ⟨slots, hf, hlen, hnot⟩ := frame_latch_split out ins
  obtain ⟨m, rfl⟩ := Nat.exists_eq_succ_of_ne_zero h0
  rw [hf, List.take_succ_cons, List.take_append_of_le_length (by omega)]
  exact levelAfter_of_not_drove (.driven .low) fun v hv => hnot v (List.mem_of_mem_take hv)

/-- Slot 15 of a frame sends the reserved cell, at position 55 (R103). -/
theorem frame_reservedCell (out : Vector Bool 16) (ins : Vector Bool 8) :
    (frame out ins)[55]? = some (Token.drove .sdo (lv out[15])) := by
  have hop : cyclePlan[55]? = some (55, .data 15) := by decide
  rw [← cyclePlan_tokens, List.getElem?_map, hop]
  rfl

end Sys2Proof.Machine
end

section
/-! PROOF. The invariant: it holds at power-on, every command and so every step keeps it, and so every run does. -/

namespace Sys2Proof.Machine

/-- At power-on the invariant holds whatever the host, the pin layer and the environment are. -/
theorem inv_powerOn (words : List Word) (pins : List PinAnswer) (env : Environment) :
    ({ State.reset with host := words, pins := pins, env := env } : State).Inv where
  idle := rfl
  noSample := rfl
  reservedCell := nofun
  resulted := nofun
  atRest := by rintro (h | ⟨b, h⟩) <;> cases h
  afterFault := nofun
  counted := rfl
  drawn := by rintro (_ | _ | _) n h <;> cases h

/-- The invariant does not look at what the host will send. -/
theorem State.Inv.setHost {s : State} (h : s.Inv) (words : List Word) : (s.setHost words).Inv where
  idle := h.idle
  noSample := h.noSample
  reservedCell := h.reservedCell
  resulted := h.resulted
  atRest := h.atRest
  afterFault := h.afterFault
  counted := h.counted
  drawn L n hL := h.drawn L n ((State.lvl_congr rfl rfl rfl L).trans hL)

/-- A command whose cycle is complete keeps the invariant: the lines rest as R212 says, since slot 15 was sent low. -/
theorem inv_afterSuccess {i : Instr} {s : State} (hs : s.Inv) (ha : s.Accepts i) (ins : Vector Bool 8) (env : Environment) :
    (afterSuccess i s ins env).Inv where
  idle := hs.idle
  noSample := rfl
  reservedCell _ := written_reservedCell_false ha hs.reservedCell
  resulted _ := by rcases resultWith_success i ins with h | ⟨b, h⟩ <;> simp [h]
  atRest _ := by simp [written_reservedCell_false ha hs.reservedCell, lv]
  afterFault e he := by rcases resultWith_success i ins with h | ⟨b, h⟩ <;> simp [h] at he
  counted := by simp [hs.counted]
  drawn L n hL := by
    obtain ⟨v, hv⟩ := afterSuccess_lvl i s ins env L
    rw [hv] at hL
    cases hL

section afterPinFault

variable {i : Instr} {s : State} (n : Fin 58) (e : PinError) (ins : Vector Bool 8) (cells : Vector (Option Bool) 8)
  (env : Environment)

/-- After a fault `LATCH` is unspecified where its own drive failed, and low everywhere else (R190). -/
theorem afterPinFault_latch : (afterPinFault i s n e ins cells env).lvlLatch = .driven .low ∨
    (afterPinFault i s n e ins cells env).lvlLatch.isUnspecified = true := by
  have hl := afterPinFault_lvl i s n e ins cells env .latch
  rw [State.lvl_latch] at hl
  rw [hl]
  by_cases hn : lineAt n (written i s.out) ins = some .latch
  · rw [if_pos hn]
    exact .inr rfl
  · have h0 : n.val ≠ 0 := by
      intro h0
      obtain rfl : n = 0 := Fin.ext h0
      exact hn (lineAt_zero _ _)
    rw [if_neg hn, levelAfter_latch_take_frame _ _ _ h0 n.isLt]
    exact .inl rfl

/-- A line that a faulted command leaves unspecified by a failed drive was left so by an earlier command or by this one. -/
theorem afterPinFault_drawn (hs : s.Inv) (L : Line) (m : Nat) (h : (afterPinFault i s n e ins cells env).lvl L = .failed m) :
    m < s.ops + n + 1 := by
  rw [afterPinFault_lvl] at h
  split at h
  · cases h
    omega
  · rcases levelAfter_eq_or_driven L (s.lvl L) ((frame (written i s.out) ins).take n) with hk | ⟨v, hv⟩
    · have := hs.drawn L m (hk ▸ h)
      omega
    · rw [hv] at h
      cases h

/-- A command whose cycle faults keeps the invariant. -/
theorem inv_afterPinFault (hs : s.Inv) (ha : s.Accepts i) : (afterPinFault i s n e ins cells env).Inv where
  idle := by simp
  noSample := by simp
  reservedCell hinit := by
    by_cases hi : i = .new
    · subst hi
      rw [afterPinFault_new_init] at hinit
      cases hinit
    · rw [(afterPinFault_of_ne_new s n e ins cells env hi).1]
      exact written_reservedCell_false ha hs.reservedCell
  resulted _ := by simp
  atRest h := by simp at h
  afterFault _ _ := afterPinFault_latch n e ins cells env
  counted := by
    have := n.isLt
    simp only [afterPinFault_trace, afterPinFault_ops, List.length_append, List.length_take, frame_length,
      List.length_singleton, hs.counted]
    omega
  drawn L m h := by
    rw [afterPinFault_ops]
    exact afterPinFault_drawn n e ins cells env hs L m h

end afterPinFault

/-- Every command keeps the invariant. -/
theorem exec_keeps_inv {i : Instr} {s t : State} (hs : s.Inv) (h : exec i s = .next t) : t.Inv := by
  obtain ⟨ha, ⟨-, ins, env, rfl⟩ | ⟨n, e, ins, cells, env, -, rfl⟩⟩ := exec_next_cases h
  · exact inv_afterSuccess hs ha ins env
  · exact inv_afterPinFault n e ins cells env hs ha

/-- A step that goes on is idle, or one command after its word was taken from the port (R118, R61). -/
theorem step_next_cases {s t : State} (h : step s = .next t) : t = s ∨ ∃ i words, exec i (s.setHost words) = .next t := by
  unfold step nextCommand at h
  cases hw : s.host with
  | nil =>
    simp only [hw, Host.Outcome.next.injEq] at h
    exact .inl h.symm
  | cons w rest =>
    cases hd : decode w with
    | command i =>
      simp only [hw, hd] at h
      exact .inr ⟨i, rest, h⟩
    | reserved why =>
      simp only [hw, hd] at h
      cases h

/-- Every step keeps the invariant. -/
theorem step_keeps_inv {s t : State} (hs : s.Inv) (h : step s = .next t) : t.Inv := by
  obtain rfl | ⟨i, words, hx⟩ := step_next_cases h
  · exact hs
  · exact exec_keeps_inv (hs.setHost words) hx

/-- A run of one step more goes on from the state that the first step answers. -/
theorem run_succ_next {k : Nat} {s t : State} (h : core.run (k + 1) s = .next t) :
    ∃ u, step s = .next u ∧ core.run k u = .next t := by
  have hrun := (Host.Core.run.eq_2 core s k).symm.trans h
  cases hstep : core.step s with
  | next u =>
    rw [hstep] at hrun
    exact ⟨u, hstep, hrun⟩
  | fault r => cases r
  | refused r =>
    rw [hstep] at hrun
    cases hrun

/-- Every run keeps the invariant. -/
theorem run_keeps_inv (k : Nat) {s t : State} (hs : s.Inv) (h : core.run k s = .next t) : t.Inv := by
  induction k generalizing s with
  | zero =>
    cases h
    exact hs
  | succ k ih =>
    obtain ⟨u, hstep, hrun⟩ := run_succ_next h
    exact ih (step_keeps_inv hs hstep) hrun

/-- Settles O46: an idle step changes nothing, and a command ends complete or faulted, each of which keeps the invariant. -/
theorem stepKeepsInvariant : Obligations.StepKeepsInvariant := fun _ _ => step_keeps_inv

/-- Settles O45, at the host, pin layer and environment of `State.reset`. -/
theorem invariantAtReset : Obligations.InvariantAtReset := inv_powerOn [] [] (.oracle [])

/-- Settles O47, by induction on the number of steps. -/
theorem reachedStatesMeetInvariant : Obligations.ReachedStatesMeetInvariant :=
  fun words pins env k _ h => run_keeps_inv k (inv_powerOn words pins env) h

/-- Settles O42: the values of `State.reset`, field by field. -/
theorem powerOnState : Obligations.PowerOnState :=
  ⟨rfl, rfl, rfl, rfl, fun L => by cases L <;> rfl⟩

end Sys2Proof.Machine
end

section
/-! PROOF. `INIT` and the reserved cell across a command. -/

namespace Sys2Proof.Machine

/-- A `NEW` whose cycle faults ends with `INIT` false (R141). -/
theorem exec_new_init_of_faultAt {s t : State} {n : Fin 58} {e : PinError} (h : exec .new s = .next t) (hf : s.FaultAt n e) :
    t.init = false := by
  obtain ⟨-, ⟨hn, -⟩ | ⟨n', e', ins, cells, env, -, rfl⟩⟩ := exec_next_cases h
  · exact absurd hf (hn.not_faultAt n e)
  · exact afterPinFault_new_init s n' e' ins cells env

/-- Settles O11: `NEW` alone sets and clears `INIT`, and the other commands are refused while it is false. -/
theorem refusedUntilConstructed : Obligations.RefusedUntilConstructed := by
  refine ⟨rfl, fun s t h hn => ?_, fun s t n e h hf => exec_new_init_of_faultAt h hf,
    fun i s t hi h => exec_init_of_ne_new hi h, fun i s hi hs h => exec_of_unconstructed hi hs h⟩
  obtain ⟨ins, env, rfl⟩ := exec_next_success h hn
  rfl

/-- While the block is constructed after a command, `OUT` is what the command's cycle began with (R58, R191). -/
theorem exec_out_of_init {i : Instr} {s t : State} (h : exec i s = .next t) (ht : t.init = true) : t.out = written i s.out := by
  by_cases hi : i = .new
  · subst hi
    obtain ⟨-, ⟨-, ins, env, rfl⟩ | ⟨n, e, ins, cells, env, -, rfl⟩⟩ := exec_next_cases h
    · rfl
    · rw [afterPinFault_new_init] at ht
      cases ht
  · exact exec_out_of_ne_new hi h

/-- Settles O41: no command but `NEW` writes the cell, `NEW` clears it, and slot 15 of a complete frame sends it. -/
theorem reservedCellStaysFalse : Obligations.ReservedCellStaysFalse := by
  intro i s t h
  have ha := accepts_of_exec h
  refine ⟨fun hi => ?_, fun hs ht => ?_, fun hs hn => ?_⟩
  · rw [exec_out_of_ne_new hi h, written_reservedCell hi]
  · rw [exec_out_of_init h ht]
    exact written_reservedCell_false ha hs
  · obtain ⟨ins, env, rfl⟩ := exec_next_success h hn
    rw [afterSuccess_trace, List.drop_left, frame_reservedCell, written_reservedCell_false ha hs]
    rfl

end Sys2Proof.Machine
end

section
/-! PROOF. The shared cell: `OUT` over a list of commands holds the last write to each cell (R156, R166). -/

namespace Sys2Proof

/-- The last write of two lists is that of the second, or else that of the first (R156). -/
theorem lastWrite_append (c : Fin 16) (xs ys : List Instr) :
    lastWrite c (xs ++ ys) = (lastWrite c ys).or (lastWrite c xs) := by
  induction xs with
  | nil => simp [lastWrite]
  | cons i rest ih => simp only [List.cons_append, lastWrite, ih, Option.or_assoc]

/-- Commands none of which writes a cell have no last write to it. -/
theorem lastWrite_eq_none {c : Fin 16} {cmds : List Instr} (h : ∀ i ∈ cmds, i.writes c = none) : lastWrite c cmds = none := by
  induction cmds with
  | nil => rfl
  | cons i rest ih =>
    rw [lastWrite, ih fun j hj => h j (List.mem_cons_of_mem _ hj), h i List.mem_cons_self]
    rfl

/-- A write to a cell with no writer of it behind is the last write (R166). -/
theorem lastWrite_of_writes {c : Fin 16} {i : Instr} {v : Bool} (before : List Instr) {after : List Instr}
    (hi : i.writes c = some v) (h : ∀ j ∈ after, j.writes c = none) : lastWrite c (before ++ i :: after) = some v := by
  rw [lastWrite_append, lastWrite, lastWrite_eq_none h, hi]
  rfl

/-- `NEW`, `D9` and `SEG` are the only writers of the shared cell (R24). -/
theorem writes_sharedCell {i : Instr} (hnew : i ≠ .new) (hd9 : ∀ b, i ≠ .d9 b) (hseg : ∀ p, i ≠ .seg p) :
    i.writes 8 = none := by
  cases i with
  | new => exact absurd rfl hnew
  | d9 b => exact absurd rfl (hd9 b)
  | seg p => exact absurd rfl (hseg p)
  | _ => rfl

namespace Machine

/-- A list of commands without `NEW` runs to its end on a Ready block, whether or not the cycles succeed, and each cell of
`OUT` holds the last write to it (R156, R192). -/
theorem runCommands_ready {cmds : List Instr} {s : State} (hnew : .new ∉ cmds) (hs : s.Ready) :
    ∃ t, runCommands cmds s = .next t ∧ t.Ready ∧ ∀ c : Fin 16, t.out[c] = (lastWrite c cmds).getD s.out[c] := by
  induction cmds generalizing s with
  | nil => exact ⟨s, rfl, hs, fun _ => rfl⟩
  | cons i rest ih =>
    obtain ⟨hi, hrest⟩ : i ≠ .new ∧ .new ∉ rest := by simpa [eq_comm] using hnew
    obtain ⟨u, hu, hur, huo⟩ := exec_ready hi hs
    obtain ⟨t, ht, htr, hto⟩ := ih hrest hur
    refine ⟨t, by rw [runCommands, hu]; exact ht, htr, fun c => ?_⟩
    rw [hto c, huo, written_cell, lastWrite]
    cases lastWrite c rest <;> rfl

/-- A writer of a cell with no later writer of it determines the cell. -/
theorem runCommands_cell {c : Fin 16} {i : Instr} {v : Bool} {before after : List Instr} {s : State} (hs : s.Ready)
    (hnew : .new ∉ before ++ i :: after) (hi : i.writes c = some v) (h : ∀ j ∈ after, j.writes c = none) :
    ∃ t, runCommands (before ++ i :: after) s = .next t ∧ t.out[c] = v := by
  obtain ⟨t, ht, -, hout⟩ := runCommands_ready hnew hs
  refine ⟨t, ht, ?_⟩
  rw [hout c, lastWrite_of_writes before hi h]
  rfl

/-- `OUT` in full after a list of commands, where its cells are known. -/
theorem runCommands_out {cmds : List Instr} {s : State} (hnew : .new ∉ cmds) (hs : s.Ready) (out : Vector Bool 16)
    (hout : ∀ c : Fin 16, (lastWrite c cmds).getD s.out[c] = out[c]) : ∃ t, runCommands cmds s = .next t ∧ t.out = out := by
  obtain ⟨t, ht, -, hcell⟩ := runCommands_ready hnew hs
  exact ⟨t, ht, Vector.ext fun c hc => (hcell ⟨c, hc⟩).trans (hout ⟨c, hc⟩)⟩

/-- Settles O39: both writers are the last write to the cell, and the two sequences of R166 are computed cell by cell. -/
theorem sharedCellHasTwoWriters : Obligations.SharedCellHasTwoWriters := by
  refine ⟨fun b p before after s hs hbefore hafter => ?_, fun s hs hoff => ?_⟩
  · have hnone : ∀ j ∈ after, j.writes 8 = none := by
      intro j hj
      obtain ⟨hnew, hd9, hseg⟩ := hafter j hj
      exact writes_sharedCell hnew hd9 hseg
    have hnew : .new ∉ after := fun h => (hafter _ h).1 rfl
    exact ⟨runCommands_cell (c := 8) hs (by simp [hbefore, hnew]) rfl hnone,
      runCommands_cell (c := 8) hs (by simp [hbefore, hnew]) rfl hnone⟩
  · constructor
    · obtain ⟨t, ht, hout⟩ := runCommands_out (cmds := [.d9 true, expandDisplay .one]) (by decide) hs
        (written (expandDisplay .one) allOff) (by rw [hoff]; decide)
      exact ⟨t, ht, by rw [hout]; rfl, by rw [State.outW, hout]; rfl⟩
    · obtain ⟨t, ht, hout⟩ := runCommands_out (cmds := [expandDisplay .one, .d9 true]) (by decide) hs
        (written (.d9 true) (written (expandDisplay .one) allOff)) (by rw [hoff]; decide)
      exact ⟨t, ht, by rw [hout]; rfl, by rw [State.outW, hout]; rfl⟩

end Machine

end Sys2Proof
end

section
/-! PROOF. With the oracle attached nothing that is sent comes back: the samples are the oracle's own levels (R26). -/

namespace Sys2Proof.Machine

/-- Sampling slots use up one level of the oracle each, whatever they send (D13). -/
theorem afterSampling_oracle (out : Vector Bool 16) (levels : List Level) (slots : List (Fin 8)) :
    afterSampling out (.oracle levels) slots = .oracle (levels.drop slots.length) := by
  induction slots generalizing levels with
  | nil => rfl
  | cons i rest ih =>
    refine (ih levels.tail).trans ?_
    rw [List.drop_tail, List.length_cons]

/-- With the oracle attached the sample of slot `i` is the oracle's level number `i` (R102, D13). -/
theorem finished_sample_oracle {s : State} {levels : List Level} (h : s.env = .oracle levels) (i : Fin 8) :
    (finished s).input[i] = some (bit ((levels.drop i).headD (Config.sdiLevel (s.ops + 4 + 4 * i.val)))) := by
  have hlen : (([0, 1, 2, 3, 4, 5, 6, 7] : List (Fin 8)).take i).length = i := by
    have := i.isLt
    simp only [List.length_take, List.length_cons, List.length_nil]
    omega
  rw [finished_sample, h, Environment.onLatchLow, afterSampling_oracle, hlen]
  rfl

/-- A getter returns the sample of its own cell (R182). -/
theorem returned_buttonGetter (k : Fin 8) : returned (buttonGetter k) = some k := by
  fin_cases k <;> rfl

/-- With the oracle attached a complete getter returns the oracle's level of its slot (R102, D13). -/
theorem buttonGetter_res_oracle {k : Fin 8} {s t : State} {levels : List Level} (henv : s.env = .oracle levels)
    (h : exec (buttonGetter k) s = .next t) (hn : s.NoPinFault) :
    t.res = .okBit (bit ((levels.drop k).headD (Config.sdiLevel (s.ops + 4 + 4 * k.val)))) := by
  obtain ⟨ins, hi, ht⟩ := exec_success (accepts_of_exec h) hn
  have hk := (hi k).symm.trans (finished_sample_oracle (s := begun (buttonGetter k) s) henv k)
  rw [Host.Outcome.next.inj (h.symm.trans ht)]
  simp only [resultWith, returned_buttonGetter, Option.some.inj hk]
  rfl

/-- Settles O21: the result is the oracle's level or the pin layer's error, and neither reads `OUT`. -/
theorem gettersDoNotRevealOut : Obligations.GettersDoNotRevealOut := by
  intro k s t levels out henv h
  have ha : State.Accepts { s with out := out } (buttonGetter k) := show s.Accepts _ from accepts_of_exec h
  have h' := exec_of_accepts ha
  refine ⟨_, h', ?_⟩
  rcases noPinFault_or_faultAt s with hn | ⟨n, e, hf⟩
  · exact (buttonGetter_res_oracle (s := { s with out := out }) henv h' hn).trans (buttonGetter_res_oracle henv h hn).symm
  · exact (exec_res_of_faultAt h' hf).trans (exec_res_of_faultAt h hf).symm

end Sys2Proof.Machine
end

section
/-! PROOF. The record: every operation commutes with putting an older record before the state's own (R38). -/

namespace Sys2Proof.Machine

/-- The state with an older record before its own. -/
def State.behind (old : List Token) (s : State) : State := { s with trace := old ++ s.trace }

/-- The states an attempt ends in, with an older record before their own. -/
def Attempt.behind (old : List Token) : Attempt → Attempt
  | .done s => .done (s.behind old)
  | .failed e s => .failed e (s.behind old)

section behind

variable (old : List Token)

/-- A line operation that succeeds does not read the record. -/
theorem performed_behind (op : LineOp) (s : State) : performed op (s.behind old) = (performed op s).behind old := by
  have htoken : tokenNow op (s.behind old) = tokenNow op s := by cases op <;> rfl
  have henv : envNow op (s.behind old) = envNow op s := by cases op <;> rfl
  have hinput : inputNow op (s.behind old) = inputNow op s := by cases op <;> rfl
  rw [performed, htoken, henv, hinput]
  simp [performed, State.behind]

/-- A line operation that fails does not read the record. -/
theorem performFailed_behind (op : LineOp) (s : State) :
    performFailed op (s.behind old) = (performFailed op s).behind old := by
  have henv : envFailed op (s.behind old) = envFailed op s := by cases op <;> rfl
  rw [performFailed, henv]
  simp [performFailed, State.behind]

/-- A line operation appends to the record and does not read it. -/
theorem perform_behind (op : LineOp) (s : State) : perform op (s.behind old) = (perform op s).behind old := by
  cases ha : s.answerAt 0 with
  | ok => rw [perform_ok op ha, perform_ok op (s := s.behind old) ha, performed_behind, Attempt.behind]
  | err e => rw [perform_err op ha, perform_err op (s := s.behind old) ha, performFailed_behind, Attempt.behind]

/-- The sequencer appends to the record and does not read it. -/
theorem runPlan_behind (plan : List (Fin 58 × LineOp)) (s : State) :
    runPlan plan (s.behind old) = (runPlan plan s).behind old := by
  induction plan generalizing s with
  | nil => rfl
  | cons x rest ih =>
    obtain ⟨n, op⟩ := x
    have hop : perform op ((s.behind old).setSeq (.pos n)) = (perform op (s.setSeq (.pos n))).behind old :=
      perform_behind old op (s.setSeq (.pos n))
    rw [runPlan, runPlan, hop]
    cases perform op (s.setSeq (.pos n)) with
    | done t => exact ih t
    | failed e t => rfl

/-- The cycle appends to the record and does not read it. -/
theorem cycle_behind (s : State) : cycle (s.behind old) = (cycle s).behind old := by
  have hrun : runPlan cyclePlan ((s.behind old).setInput noSamples) = (runPlan cyclePlan (s.setInput noSamples)).behind old :=
    runPlan_behind old cyclePlan (s.setInput noSamples)
  rw [cycle, cycle, hrun]
  cases runPlan cyclePlan (s.setInput noSamples) <;> rfl

/-- The end of a command does not read the record. -/
theorem endCommand_behind (i : Instr) (a : Attempt) :
    endCommand (onDone i) (onFault i) (a.behind old) = (endCommand (onDone i) (onFault i) a).behind old := by
  cases a with
  | done t => cases i <;> rfl
  | failed e t => cases i <;> rfl

/-- A command appends to the record and does not read it. -/
theorem exec_behind {i : Instr} {s : State} (ha : s.Accepts i) :
    ∃ u, exec i s = .next u ∧ ∀ old, exec i (s.behind old) = .next (u.behind old) := by
  refine ⟨_, exec_of_accepts ha, fun old => ?_⟩
  have hold : (s.behind old).Accepts i := ha
  have hcycle := cycle_behind old (s.setOut (written i s.out))
  rw [exec_of_accepts hold, ← endCommand_behind, ← hcycle]
  rfl

end behind

/-- Settles O33: what a command appends is what it appends to an empty record. -/
theorem traceIsNeverRead : Obligations.TraceIsNeverRead := by
  intro i s t tr h
  have ha : State.Accepts { s with trace := [] } i := show s.Accepts i from accepts_of_exec h
  obtain ⟨u, -, hu⟩ := exec_behind ha
  have hs : ∀ old, State.behind old { s with trace := [] } = { s with trace := old } := by simp [State.behind]
  have ht : t = u.behind s.trace := by
    have := hu s.trace
    rw [hs] at this
    exact Host.Outcome.next.inj (h.symm.trans this)
  refine ⟨u.trace, by rw [ht]; rfl, ?_⟩
  rw [ht, ← hs tr, hu tr]
  rfl

end Sys2Proof.Machine
end

section
/-! PROOF. The host port: a step is the command that the host's next word decodes to (R61, R77). -/

namespace Sys2Proof

/-- The decoder of a table word answers a command exactly when the decoder of command words does. -/
theorem decodeTableWord_eq_some {nbits w : Nat} {i : Instr} :
    decodeTableWord nbits w = some i ↔ decode (BitVec.ofNat 16 (w % 2 ^ nbits)) = .command i := by
  unfold decodeTableWord
  cases decode (BitVec.ofNat 16 (w % 2 ^ nbits)) <;> simp

namespace Machine

/-- A host whose next word is a command has issued that command (R77, R78). -/
theorem nextCommand_of_decode {s : State} {w : Word} {rest : List Word} {i : Instr} (hw : s.host = w :: rest)
    (hd : decode w = .command i) : nextCommand s = .command i (s.setHost rest) := by
  simp only [nextCommand, hw, hd]

/-- A step runs the command that the host has issued (R61). -/
theorem step_of_nextCommand {s t : State} {i : Instr} (h : nextCommand s = .command i t) : step s = exec i t := by
  simp only [step, h]

/-- `withFetchWord` puts its word before the host's own. -/
theorem withFetchWord_host (s : State) (nbits w : Nat) :
    (s.withFetchWord nbits w).host = BitVec.ofNat 16 (w % 2 ^ nbits) :: s.host := rfl

/-- Taking the word that `withFetchWord` placed from the port leaves the state as it was. -/
theorem withFetchWord_setHost (s : State) (nbits w : Nat) : (s.withFetchWord nbits w).setHost s.host = s := rfl

/-- Settles O6: the host's word is issued as its command, and the step runs what is issued. -/
theorem stepRunsDecodedCommand : Obligations.StepRunsDecodedCommand :=
  fun _ _ _ _ hw hd => step_of_nextCommand (nextCommand_of_decode hw hd)

/-- Settles O9: the placed word is the one the step takes, and with it gone the state is the one before. -/
theorem fetchWordRunsNext : Obligations.FetchWordRunsNext := by
  intro s w i _ hi
  have hissued := nextCommand_of_decode (withFetchWord_host s 16 w) (decodeTableWord_eq_some.1 hi)
  rw [step_of_nextCommand hissued, withFetchWord_setHost]

end Machine

end Sys2Proof
end

section
/-! PROOF. The serial frame read back: its data drives are the cells of `OUT` and its reads the samples, both in ascending
order and at the positions of R103 (R53, R72, R74). -/

namespace Sys2Proof.Machine

/-- The cell of `OUT` a line operation sends, if it sends one. -/
def LineOp.sends : LineOp → Option (Fin 16)
  | .data i => some i
  | .drive _ _ | .read _ => none

/-- The cells of `OUT` a plan sends, in order. -/
def cellsSent (plan : List (Fin 58 × LineOp)) : List (Fin 16) := plan.filterMap fun x => x.2.sends

/-- The plan sends the sixteen cells of `OUT` in ascending order, each once (R53). -/
theorem cellsSent_cyclePlan : cellsSent cyclePlan = List.finRange 16 := by decide

/-- The reads in the tokens of a plan are the samples of the cells it reads. -/
theorem readsOf_tokens (plan : List (Fin 58 × LineOp)) (out : Vector Bool 16) (ins : Vector Bool 8) :
    readsOf (plan.map fun x => x.2.token out ins) = (cellsRead plan).map fun i => ins[i] := by
  induction plan with
  | nil => rfl
  | cons x rest ih =>
    obtain ⟨n, op⟩ := x
    cases op with
    | drive L v => exact ih
    | data i => exact ih
    | read i => exact congrArg (ins[i] :: ·) ih

/-- In a plan that drives `SDO` only to send a cell, the drives of `SDO` are the levels of the cells it sends (R11, D3). -/
theorem drivesOf_sdo_tokens {plan : List (Fin 58 × LineOp)}
    (h : ∀ x ∈ plan, x.2.line = some .sdo → x.2.sends ≠ none) (out : Vector Bool 16) (ins : Vector Bool 8) :
    drivesOf .sdo (plan.map fun x => x.2.token out ins) = (cellsSent plan).map fun i => lv out[i] := by
  induction plan with
  | nil => rfl
  | cons x rest ih =>
    have hrest := ih fun y hy => h y (List.mem_cons_of_mem _ hy)
    obtain ⟨n, op⟩ := x
    cases op with
    | drive L v =>
      have hL : L ≠ .sdo := fun hL => h _ List.mem_cons_self (congrArg some hL) rfl
      exact (if_neg hL).trans hrest
    | data i => exact congrArg (lv out[i] :: ·) hrest
    | read i => exact hrest

/-- The cells of a vector in ascending order. -/
theorem map_finRange_getElem {α : Type} {n : Nat} (v : Vector α n) : ((List.finRange n).map fun i => v[i]) = v.toList := by
  apply List.ext_getElem <;> simp

/-- A frame reads the eight samples in ascending order (R53, R72). -/
theorem readsOf_frame (out : Vector Bool 16) (ins : Vector Bool 8) : readsOf (frame out ins) = ins.toList := by
  rw [← cyclePlan_tokens, readsOf_tokens, cellsRead_cyclePlan]
  exact map_finRange_getElem ins

/-- A frame sends the sixteen cells of `OUT` as they are, in ascending order (R53, R72). -/
theorem drivesOf_sdo_frame (out : Vector Bool 16) (ins : Vector Bool 8) :
    drivesOf .sdo (frame out ins) = out.toList.map lv := by
  have hdata : ∀ x ∈ cyclePlan, x.2.line = some .sdo → x.2.sends ≠ none := by decide
  rw [← cyclePlan_tokens, drivesOf_sdo_tokens hdata, cellsSent_cyclePlan, ← map_finRange_getElem, List.map_map]
  rfl

/-- The token of a frame at a position is that of the plan's operation there. -/
theorem frame_getElem_of_plan {n : Nat} {m : Fin 58} {op : LineOp} (h : cyclePlan[n]? = some (m, op))
    (out : Vector Bool 16) (ins : Vector Bool 8) : (frame out ins)[n]? = some (op.token out ins) := by
  rw [← cyclePlan_tokens, List.getElem?_map, h]
  rfl

/-- The plan sends cell `c` at its data position (R103). -/
theorem cyclePlan_dataPosition : ∀ c : Fin 16, ∃ m, cyclePlan[dataPosition c]? = some (m, .data c) := by decide +kernel

/-- The plan reads cell `k` at its read position (R103). -/
theorem cyclePlan_readPosition : ∀ k : Fin 8, ∃ m, cyclePlan[readPosition k]? = some (m, .read k) := by decide +kernel

/-- A frame sends cell `c` at its data position (R103). -/
theorem frame_dataPosition (out : Vector Bool 16) (ins : Vector Bool 8) (c : Fin 16) :
    (frame out ins)[dataPosition c]? = some (.drove .sdo (lv out[c])) := by
  obtain ⟨m, h⟩ := cyclePlan_dataPosition c
  exact frame_getElem_of_plan h out ins

/-- A frame reads cell `k` at its read position (R103). -/
theorem frame_readPosition (out : Vector Bool 16) (ins : Vector Bool 8) (k : Fin 8) :
    (frame out ins)[readPosition k]? = some (.read ins[k]) := by
  obtain ⟨m, h⟩ := cyclePlan_readPosition k
  exact frame_getElem_of_plan h out ins

/-- Settles O24: an accepted command without a pin fault appends the frame of the `OUT` it leaves, and a frame carries
that `OUT` and its samples in ascending order. -/
theorem successSendsOneFrame : Obligations.SuccessSendsOneFrame := by
  intro i s ha hn
  have h := exec_of_accepts ha
  obtain ⟨ins, env, ht⟩ := exec_next_success h hn
  rw [ht] at h
  exact ⟨ins, _, h, afterSuccess_trace .., drivesOf_sdo_frame _ ins, readsOf_frame _ ins, frame_dataPosition _ ins,
    frame_readPosition _ ins⟩

end Sys2Proof.Machine
end

section
/-! PROOF. The opcode map: its rows are disjoint (R78), and the encoder puts the operands back where the rows take them from
(R79), so decoder and encoder are inverse to each other. -/

namespace Sys2Proof

/-- A word that selects two rows agrees with both patterns on the bits that both masks keep. -/
theorem CommandRow.patterns_agree {r q : CommandRow} {w : Word} (hr : r.selects w = true) (hq : q.selects w = true) :
    r.pattern &&& q.mask = q.pattern &&& r.mask := by
  rw [← eq_of_beq hr, ← eq_of_beq hq, BitVec.and_assoc, BitVec.and_assoc, BitVec.and_comm r.mask]

/-- The patterns of two different rows differ in a bit that both masks keep (R78). -/
theorem commandTable_pairwise : commandTable.Pairwise (fun r q => r.pattern &&& q.mask ≠ q.pattern &&& r.mask) := by
  decide

/-- A word selects at most one row (R78). -/
theorem row_unique {w : Word} {r q : CommandRow} (hr : r ∈ commandTable) (hq : q ∈ commandTable)
    (hrw : r.selects w = true) (hqw : q.selects w = true) : r = q := by
  by_contra hne
  have hsymm : Std.Symm (fun r q : CommandRow => r.pattern &&& q.mask ≠ q.pattern &&& r.mask) := ⟨fun _ _ h => h.symm⟩
  exact commandTable_pairwise.forall hr hq hne (CommandRow.patterns_agree hrw hqw)

/-- A word decodes to what a row that it selects builds from it, and only to that (R78, R79). -/
theorem decode_eq_command_iff {w : Word} {i : Instr} :
    decode w = .command i ↔ ∃ r ∈ commandTable, r.selects w = true ∧ r.build w = i := by
  unfold decode
  cases hf : commandTable.find? (fun r => r.selects w) with
  | some r =>
    have hr := List.mem_of_find?_eq_some hf
    have hw := List.find?_some hf
    rw [Decoded.command.injEq]
    refine ⟨fun h => ⟨r, hr, hw, h⟩, ?_⟩
    rintro ⟨q, hq, hqw, rfl⟩
    rw [row_unique hr hq hw hqw]
  | none =>
    rw [List.find?_eq_none] at hf
    refine ⟨nofun, ?_⟩
    rintro ⟨q, hq, hqw, -⟩
    exact absurd hqw (hf q hq)

/-- A word is reserved when it selects no row (R81). -/
theorem decode_eq_reserved_iff {w : Word} {why : Reserved} :
    decode w = .reserved why ↔ (¬ ∃ r ∈ commandTable, r.selects w = true) ∧ reservedReason w = why := by
  rw [← List.find?_isSome, Option.not_isSome_iff_eq_none, decode]
  cases commandTable.find? (fun r => r.selects w) <;> simp

/-- The bits of a word with one bit written. -/
theorem bitAt_getElem (j k : Nat) (b : Bool) (hk : k < 16) : (bitAt j b)[k] = (decide (k = j) && b) := by
  cases b with
  | false => simp [bitAt]
  | true =>
    rw [Bool.and_true, Bool.eq_iff_iff, decide_eq_true_iff]
    simp only [bitAt, ↓reduceIte, BitVec.getElem_shiftLeft, BitVec.getElem_one, Bool.and_eq_true, Bool.not_eq_true',
      decide_eq_false_iff_not, decide_eq_true_eq]
    omega

/-- The bits of a word that holds a pattern: the seven of the pattern, and zeros above them (R79). -/
theorem patternWord_getElem (p : Pattern) (k : Nat) (hk : k < 16) :
    (patternWord p)[k] = if h : k < 7 then p[k] else false := by
  interval_cases k <;> simp [patternWord, bitAt_getElem]

/-- The one-bit operand, put back at its place in the word (R79). -/
theorem bitAt_stateOf (w : Word) : bitAt 0 (stateOf w) = w &&& ~~~0xFFFE#16 := by
  ext k hk
  interval_cases k <;> simp [bitAt_getElem, stateOf]

/-- The seven-bit operand, put back at its place in the word (R79). -/
theorem patternWord_patternOf (w : Word) : patternWord (patternOf w) = w &&& ~~~0xFF80#16 := by
  ext k hk
  interval_cases k <;> simp [patternWord_getElem, patternOf]

/-- The encoder puts the operands that a row takes from a word back into the row's pattern (R78, R79). -/
theorem encode_build (w : Word) : ∀ r ∈ commandTable, encode (r.build w) = r.pattern ||| (w &&& ~~~r.mask) := by
  simp [commandTable, setterRows, displayRows, encode, bitAt_stateOf, patternWord_patternOf]

/-- A word that selects a row is the word of the command that the row builds from it (R78). -/
theorem encode_build_of_selects {r : CommandRow} {w : Word} (hr : r ∈ commandTable) (hw : r.selects w = true) :
    encode (r.build w) = w := by
  rw [encode_build w r hr, ← eq_of_beq hw, ← BitVec.and_or_distrib_left, BitVec.or_not_self]
  exact and_all w

/-- The word of `SEG` selects its row. -/
theorem selects_encode_seg (p : Pattern) : encode (.seg p) &&& 0xFF80#16 = 0x2000#16 := by
  ext k hk
  interval_cases k <;> simp [encode, patternWord_getElem]

/-- The pattern that the word of `SEG` carries (R79). -/
theorem patternOf_encode_seg (p : Pattern) : patternOf (encode (.seg p)) = p := by
  ext k hk
  interval_cases k <;> simp [patternOf, encode, patternWord_getElem]

/-- The decoder reads every command back from its word: any pattern by the bits of its word, the 27 words without a
pattern one by one. -/
theorem decode_encode (i : Instr) : decode (encode i) = .command i := by
  cases i with
  | seg p =>
    rw [decode_eq_command_iff]
    refine ⟨⟨"SEG", 0x2000#16, 0xFF80#16, fun w => .seg (patternOf w)⟩, by simp [commandTable, displayRows], ?_, ?_⟩
    · exact beq_iff_eq.2 (selects_encode_seg p)
    · exact congrArg Instr.seg (patternOf_encode_seg p)
  | d1 b | d2 b | d3 b | d4 b | d5 b | d6 b | d7 b | d8 b | d9 b => cases b <;> decide
  | new | s1 | s2 | s3 | s4 | s5 | s6 | s7 | s8 => decide

/-- Settles O1: by command, the pattern of `SEG` bit by bit. -/
theorem decodeEncodeAgree : Obligations.DecodeEncodeAgree := decode_encode

/-- Settles O2: the word selects a row, and encoding what the row builds gives the row's pattern with the word's own
operand bits. -/
theorem encodeDecodeAgree : Obligations.EncodeDecodeAgree := by
  intro w i h
  obtain ⟨r, hr, hw, rfl⟩ := decode_eq_command_iff.1 h
  exact encode_build_of_selects hr hw

/-- Settles O4: a word of two rows would agree with both patterns where both masks keep a bit. -/
theorem opcodeRowsDisjoint : Obligations.OpcodeRowsDisjoint :=
  fun _ _ hr _ hq hrw hqw => congrArg CommandRow.mnemonic (row_unique hr hq hrw hqw)

end Sys2Proof
end

section
/-! PROOF. Reserved words: the words that no row selects are those that break a field rule of R77, and the decoder names the
first rule that they break (R81). -/

namespace Sys2Proof

/-- Well-formed fields keep all four field rules of R77. -/
theorem Fields.problem_eq_none_iff (f : Fields) :
    f.problem = none ↔ f.op < 4 ∧ f.idx ≤ f.maxIdx ∧ f.z = 0 ∧ f.arg ≤ f.maxArg := by
  unfold Fields.problem
  split_ifs <;> simp_all [BitVec.not_lt, BitVec.not_le]

/-- The well-formed words, by their number: `NEW`, the setters, `SEG` and the getters (R77). -/
theorem problem_ofWord_eq_none_iff (w : Word) : (Fields.ofWord w).problem = none ↔
    w.toNat = 0 ∨
    w.toNat / 4096 = 1 ∧ w.toNat / 256 % 16 ≤ 8 ∧ w.toNat % 256 ≤ 1 ∨
    w.toNat / 128 = 64 ∨
    w.toNat / 4096 = 3 ∧ w.toNat / 256 % 16 ≤ 7 ∧ w.toNat % 256 = 0 := by
  obtain ⟨hop, hidx, hz, harg⟩ := fields_toNat w
  rw [Fields.problem_eq_none_iff, Fields.maxIdx, Fields.maxArg]
  simp only [BitVec.lt_def, BitVec.le_def, ← BitVec.toNat_inj, apply_ite BitVec.toNat, hop, hidx, hz, harg,
    BitVec.ofNat_eq_ofNat, BitVec.toNat_ofNat, Nat.reducePow, Nat.reduceMod]
  split_ifs <;> omega

/-- A word selects a row exactly when its fields break no rule (R77, R78). -/
theorem exists_row_iff (w : Word) : (∃ r ∈ commandTable, r.selects w = true) ↔ (Fields.ofWord w).problem = none := by
  rw [problem_ofWord_eq_none_iff]
  simp only [commandTable, setterRows, displayRows, CommandRow.selects, List.cons_append, List.nil_append,
    List.exists_mem_cons_iff, List.not_mem_nil, false_and, exists_false, or_false, selects_all, selects_dropOne,
    selects_dropSeven, BitVec.reduceToNat]
  omega

/-- Bit 7 of a word is its field `z` (R77). -/
theorem getLsbD_seven_iff (w : Word) : w.getLsbD 7 = true ↔ (Fields.ofWord w).z ≠ 0 := by
  obtain ⟨-, -, hz, -⟩ := fields_toNat w
  rw [← BitVec.testBit_toNat, Nat.testBit_eq_decide_div_mod_eq, decide_eq_true_iff, ne_eq, ← BitVec.toNat_inj, hz]
  simp

/-- An opcode is one of the four in use, or reserved (R77). -/
theorem opcode_cases : ∀ op : BitVec 4, op = 0#4 ∨ op = 1#4 ∨ op = 2#4 ∨ op = 3#4 ∨
    4#4 ≤ op ∧ op ≠ 0#4 ∧ op ≠ 1#4 ∧ op ≠ 2#4 ∧ op ≠ 3#4 := by decide

/-- The bounds on `idx` that the decoder tests, as the bounds of R77. -/
theorem index_bounds : ∀ idx : BitVec 4, (idx ≠ 0 ↔ 0 < idx) ∧ (9 ≤ idx ↔ 8 < idx) ∧ (8 ≤ idx ↔ 7 < idx) := by decide

/-- The reason that the decoder names for a word, by the field rules of R77 in the order of the fields. -/
theorem reservedReason_eq (w : Word) : reservedReason w =
    if 4 ≤ (Fields.ofWord w).op then .opcode
    else if (Fields.ofWord w).maxIdx < (Fields.ofWord w).idx then .index
    else if (Fields.ofWord w).z ≠ 0 then .zeroBit
    else .argument := by
  obtain ⟨hzero, hnine, height⟩ := index_bounds (Fields.ofWord w).idx
  have hop : w.extractLsb' 12 4 = (Fields.ofWord w).op := rfl
  have hidx : w.extractLsb' 8 4 = (Fields.ofWord w).idx := rfl
  simp only [reservedReason, Fields.maxIdx, getLsbD_seven_iff, hop, hidx, hzero, hnine, height]
  obtain h | h | h | h | ⟨h, h0, h1, h2, h3⟩ := opcode_cases (Fields.ofWord w).op
  · simp [h]
  · simp [h]
  · simp [h]
  · simp [h]
  · simp [h, h0, h1, h2, h3]

/-- The field rule that a word breaks is the one that the decoder names, where it breaks one. -/
theorem problem_eq_some_iff (w : Word) (why : Reserved) : (Fields.ofWord w).problem = some why ↔
    (Fields.ofWord w).problem ≠ none ∧ reservedReason w = why := by
  rw [reservedReason_eq, Fields.problem]
  split_ifs <;> simp

/-- Settles O3: a word selects no row exactly when it breaks a field rule, and the decoder names that rule. -/
theorem reservedWordsBreakFieldRules : Obligations.ReservedWordsBreakFieldRules := by
  intro w why
  rw [decode_eq_reserved_iff, exists_row_iff, problem_eq_some_iff]

/-- Settles O5: the commands' words are what the encoder answers, and the reserved words are evaluated. -/
theorem specWordsDecode : Obligations.SpecWordsDecode :=
  ⟨decode_encode .new, decode_encode (.d1 true), decode_encode (.d9 false), decode_encode (.seg (Machine.resolve .one)),
    decode_encode (.seg #v[true, false, false, false, false, false, false]),
    decode_encode .s8, by decide, by decide, by decide, by decide, by decide⟩

end Sys2Proof
end

section
/-! PROOF. Refusals: when a command and a step are refused, and with which reason (R35, R81, R225). -/

namespace Sys2Proof.Machine

/-- A command is refused during a cycle, or when it is not `NEW` and the block is not constructed, and only then
(R225, R35). -/
theorem exec_eq_refused_iff {i : Instr} {s : State} {r : Refusal} : exec i s = .refused r ↔
    (∃ n, s.seq = .pos n ∧ r = .cycleInProgress) ∨
      (i ≠ .new ∧ s.seq = .idle ∧ s.init = false ∧ r = .notConstructed) := by
  cases hs : s.seq with
  | pos n => simp [exec_of_busy i hs, @eq_comm _ r]
  | idle =>
    by_cases ha : i = .new ∨ s.init = true
    · rw [exec_of_accepts ⟨hs, ha⟩]
      obtain rfl | hb := ha
      · simp
      · simp [hb]
    · obtain ⟨hi, hb⟩ := not_or.1 ha
      rw [Bool.not_eq_true] at hb
      simp [exec_of_unconstructed hi hs hb, hi, hb, @eq_comm _ r]

/-- A host whose next word is reserved has issued no command (R81). -/
theorem nextCommand_of_reserved {s : State} {w : Word} {rest : List Word} {why : Reserved} (hw : s.host = w :: rest)
    (hd : decode w = .reserved why) : nextCommand s = .reserved why := by
  simp only [nextCommand, hw, hd]

/-- Settles O7: the port holds the reserved word with its reason, and the step refuses it. -/
theorem stepRefusesReservedWord : Obligations.StepRefusesReservedWord := by
  intro s w rest why hw hd
  simp only [step, nextCommand_of_reserved hw hd]

/-- Settles O10: a step without a word goes on, a reserved word is refused as such, and a command is refused as `exec`
refuses it. -/
theorem refusalsAreTheSpecs : Obligations.RefusalsAreTheSpecs := by
  intro s r
  cases hw : s.host with
  | nil => simp [step, nextCommand, hw]
  | cons w rest =>
    cases hd : decode w with
    | reserved why =>
      rw [stepRefusesReservedWord s w rest why hw hd]
      simp [hd, @eq_comm _ r]
    | command i =>
      rw [stepRunsDecodedCommand s w rest i hw hd, exec_eq_refused_iff]
      simp [hd]

end Sys2Proof.Machine
end

section
/-! PROOF. One line operation (R101, R102), the table of the 58 of a cycle (R103), and a step without any (R118). -/

namespace Sys2Proof.Machine

/-- Settles O8: the port holds nothing, and the step answers the state it was given. -/
theorem stepWithoutCommandIdles : Obligations.StepWithoutCommandIdles := by
  intro s hw
  have hissued : nextCommand s = .nothing := by simp only [nextCommand, hw]
  simp only [step, hissued]

/-- A drive that succeeds sets its own line and no other (R101). -/
theorem performed_drive_lvl (L : Line) (v : Level) (s : State) (K : Line) :
    (performed (.drive L v) s).lvl K = if L = K then .driven v else s.lvl K :=
  performed_lvl (.drive L v) s K

/-- A drive that fails leaves its own line unspecified and no other (R101, D9). -/
theorem performFailed_drive_lvl (L : Line) (v : Level) (s : State) (K : Line) :
    (performFailed (.drive L v) s).lvl K = if L = K then .failed s.ops else s.lvl K := by
  rw [performFailed_lvl]
  exact if_congr Option.some_inj rfl rfl

/-- Settles O22: a drive is the line operation `LineOp.drive`, whose two ends are `performed` and `performFailed`. -/
theorem driveIsOneLineOperation : Obligations.DriveIsOneLineOperation := by
  intro L v s
  refine ⟨fun h => ⟨_, perform_ok (.drive L v) h, ?_, rfl, ?_, rfl, rfl, rfl, rfl, rfl⟩,
    fun e h => ⟨_, perform_err (.drive L v) h, ?_, rfl, ?_, rfl, rfl, rfl, rfl, rfl⟩⟩
  · rw [performed_drive_lvl, if_pos rfl]
  · intro K hK
    rw [performed_drive_lvl, if_neg hK.symm]
  · rw [performFailed_drive_lvl, if_pos rfl]
    rfl
  · intro K hK
    rw [performFailed_drive_lvl, if_neg hK.symm]

/-- A level reads as true exactly when it is high (R11). -/
theorem bit_eq_true_iff (l : Level) : bit l = true ↔ l = .high := beq_iff_eq

/-- Settles O23: a read is the line operation `LineOp.read`, whose two ends are `performed` and `performFailed`. -/
theorem sampleIsOneLineOperation : Obligations.SampleIsOneLineOperation := by
  intro i s
  refine ⟨fun h => ⟨_, _, perform_ok (.read i) h, ?_, bit_eq_true_iff _, rfl, ?_, performed_lvl (.read i) s⟩,
    fun e h => ⟨_, perform_err (.read i) h, rfl, rfl, performFailed_lvl (.read i) s⟩⟩
  · exact Vector.getElem_set_self i.isLt
  · intro j hj
    exact Vector.getElem_set_ne i.isLt j.isLt fun hij => hj (Fin.ext hij.symm)

/-- Settles O31: the plan is a closed list, and each row of the table is one of its entries. -/
theorem sequencerTable : Obligations.SequencerTable := by
  refine ⟨cyclePlan_length, ?_, ?_, ?_, ?_⟩ <;> decide +kernel

end Sys2Proof.Machine
end

section
/-! PROOF. What a frame does to each line: which levels it is driven to (R107, R117), its edges (R105, R108) and where it
rests (R111). -/

namespace Sys2Proof.Machine

/-- The fixed level a line operation drives line `L` to, if it does. -/
def LineOp.drives (L : Line) : LineOp → Option Level
  | .drive K v => if K = L then some v else none
  | .data _ | .read _ => none

/-- The drives of a control line in the tokens of a plan do not depend on the data. -/
theorem drivesOf_tokens {L : Line} (hL : L ≠ .sdo) (plan : List (Fin 58 × LineOp)) (out : Vector Bool 16)
    (ins : Vector Bool 8) :
    drivesOf L (plan.map fun x => x.2.token out ins) = plan.filterMap fun x => x.2.drives L := by
  induction plan with
  | nil => rfl
  | cons x rest ih =>
    obtain ⟨n, op⟩ := x
    cases op with
    | drive K v =>
      by_cases hK : K = L <;> simpa [LineOp.token, LineOp.drives, drivesOf, hK] using ih
    | data i => exact (if_neg hL.symm).trans ih
    | read i => exact ih

/-- `CLK` goes low and high in turn, once a slot (R105). -/
theorem drivesOf_clk_frame (out : Vector Bool 16) (ins : Vector Bool 8) :
    drivesOf .clk (frame out ins) = (List.replicate 16 [Level.low, Level.high]).flatten := by
  rw [← cyclePlan_tokens, drivesOf_tokens (by decide)]
  decide +kernel

/-- `LATCH` goes low and then high (R107). -/
theorem drivesOf_latch_frame (out : Vector Bool 16) (ins : Vector Bool 8) :
    drivesOf .latch (frame out ins) = [.low, .high] := by
  rw [← cyclePlan_tokens, drivesOf_tokens (by decide)]
  decide +kernel

/-- The drives of a trace in two parts. -/
theorem drivesOf_append (L : Line) (xs ys : List Token) : drivesOf L (xs ++ ys) = drivesOf L xs ++ drivesOf L ys := by
  induction xs with
  | nil => rfl
  | cons k rest ih =>
    cases k with
    | drove K v => by_cases hK : K = L <;> simp [drivesOf, hK, ih]
    | read b => exact ih
    | fault q => exact ih

/-- The reads of a trace in two parts. -/
theorem readsOf_append (xs ys : List Token) : readsOf (xs ++ ys) = readsOf xs ++ readsOf ys := by
  induction xs with
  | nil => rfl
  | cons k rest ih =>
    cases k with
    | drove K v => exact ih
    | read b => exact congrArg (b :: ·) ih
    | fault q => exact ih

/-- How often a line that finds itself at a level and is then driven to the listed ones goes from `a` to `b`. -/
def transitions (a b : Level) : Level → List Level → Nat
  | _, [] => 0
  | now, v :: rest => (if now = a ∧ v = b then 1 else 0) + transitions a b v rest

/-- The edges of a line are the transitions of its drives (R15). -/
theorem edges_eq_transitions (L : Line) (a b now : Level) (toks : List Token) :
    edges L a b now toks = transitions a b now (drivesOf L toks) := by
  induction toks generalizing now with
  | nil => rfl
  | cons k rest ih =>
    cases k with
    | drove K v => by_cases hK : K = L <;> simp [edges, drivesOf, transitions, hK, ih]
    | read x => exact ih now
    | fault q => exact ih now

/-- The data drives of a frame that are high are as many as the cells of `OUT` that are true (R117, D3). -/
theorem count_high_map_lv (cells : List Bool) : (cells.map lv).count .high = cells.count true := by
  have hinj : Function.Injective lv := by decide
  exact List.count_map_of_injective cells lv hinj true

/-- An accepted command without a pin fault ends complete, for some samples and some environment. -/
theorem exec_completes {i : Instr} {s : State} (ha : s.Accepts i) (hn : s.NoPinFault) :
    ∃ ins env, exec i s = .next (afterSuccess i s ins env) := by
  obtain ⟨ins, -, h⟩ := exec_success ha hn
  exact ⟨ins, _, h⟩

/-- Settles O25: the counts are those of the drives and reads of a frame. -/
theorem operationCounts : Obligations.OperationCounts := by
  intro i s ha hn
  obtain ⟨ins, env, h⟩ := exec_completes ha hn
  refine ⟨_, _, h, afterSuccess_trace .., ?_⟩
  rw [drivesOf_latch_frame, drivesOf_clk_frame, drivesOf_sdo_frame, readsOf_frame, count_high_map_lv]
  refine ⟨by decide, by decide, by decide, by decide, ?_, rfl, ?_, frame_length _ ins⟩
  · rw [List.length_map, Vector.length_toList]
  · exact Vector.length_toList

/-- Settles O26: without its first and its last token a frame drives the other lines as before, and `LATCH` not at all. -/
theorem latchFramesTheCycle : Obligations.LatchFramesTheCycle := by
  intro i s ha hn
  obtain ⟨ins, env, h⟩ := exec_completes ha hn
  obtain ⟨mid, hframe, -, -⟩ := frame_latch_split (written i s.out) ins
  have hdrives : ∀ L, drivesOf L (frame (written i s.out) ins) =
      drivesOf L [.drove .latch .low] ++ (drivesOf L mid ++ drivesOf L [.drove .latch .high]) := by
    intro L
    rw [hframe, ← List.singleton_append, drivesOf_append, drivesOf_append]
  have hlatch := hdrives .latch
  have hclk := hdrives .clk
  have hsdo := hdrives .sdo
  have hreads : readsOf (frame (written i s.out) ins) = readsOf mid := by
    rw [hframe, readsOf, readsOf_append, readsOf, readsOf, List.append_nil]
  rw [drivesOf_latch_frame] at hlatch
  rw [drivesOf_clk_frame] at hclk
  rw [drivesOf_sdo_frame] at hsdo
  rw [readsOf_frame] at hreads
  refine ⟨mid, _, h, by rw [← hframe]; rfl, ?_, ?_, ?_, ?_⟩
  · simpa [drivesOf] using hlatch
  · simpa [drivesOf] using hclk.symm
  · simpa [drivesOf] using (congrArg List.length hsdo).symm
  · rw [← hreads, Vector.length_toList]

/-- Settles O27: the edges of `CLK` are the transitions of low and high in turn. -/
theorem clockEdges : Obligations.ClockEdges := by
  intro i s ha hn
  obtain ⟨ins, env, h⟩ := exec_completes ha hn
  refine ⟨ins, _, h, afterSuccess_trace .., drivesOf_clk_frame _ ins, fun now => ?_, ?_, ?_⟩ <;>
    rw [edges_eq_transitions, drivesOf_clk_frame]
  · cases now <;> decide
  · decide
  · decide

/-- Settles O28: the edges of `LATCH` are the transitions of one low and one high. -/
theorem latchEdges : Obligations.LatchEdges := by
  intro i s ha hn
  obtain ⟨ins, env, h⟩ := exec_completes ha hn
  refine ⟨_, _, h, afterSuccess_trace .., fun now => ?_, ?_, ?_⟩ <;> rw [edges_eq_transitions, drivesOf_latch_frame]
  · cases now <;> decide
  · decide
  · decide

/-- Settles O29: the state after a complete cycle names the three levels, and the reserved cell is sent as it is. -/
theorem linesRestAfterSuccess : Obligations.LinesRestAfterSuccess := by
  intro i s ha hn
  obtain ⟨ins, env, h⟩ := exec_completes ha hn
  refine ⟨_, h, rfl, rfl, rfl, ha.1, fun hcell => ?_⟩
  rw [afterSuccess_lvlSdo, written_reservedCell_false ha hcell]
  rfl

end Sys2Proof.Machine
end

section
/-! PROOF. The edge discipline (R104): where in the plan data, clock rises and reads stand, and what the lines hold there. -/

namespace Sys2Proof.Machine

/-- A sequencer that has performed a whole list met no pin fault in it (R115). -/
theorem eq_performAll_of_runPlan {plan : List (Fin 58 × LineOp)} {s t : State} (h : runPlan plan s = .done t) :
    t = performAll plan s := by
  induction plan generalizing s with
  | nil => exact (Attempt.done.inj h).symm
  | cons x rest ih =>
    obtain ⟨n, op⟩ := x
    rw [runPlan] at h
    cases ha : (s.setSeq (.pos n)).answerAt 0 with
    | ok =>
      rw [perform_ok op ha] at h
      exact ih h
    | err e =>
      rw [perform_err op ha] at h
      cases h

section lastOperation

variable {plan : List (Fin 58 × LineOp)} {m : Nat} {n : Fin 58} (s : State)

/-- One more operation of a list. -/
theorem performAll_take_succ {op : LineOp} (h : plan[m]? = some (n, op)) : performAll (plan.take (m + 1)) s =
    performed op ((performAll (plan.take m) s).setSeq (.pos n)) := by
  rw [List.take_add_one, h, performAll_append]
  rfl

/-- After a drive of `CLK` the clock is at the driven level (R31). -/
theorem lvlClk_after_clk {v : Level} (h : plan[m]? = some (n, .drive .clk v)) :
    (performAll (plan.take (m + 1)) s).lvlClk = .driven v := by
  rw [performAll_take_succ s h]
  rfl

/-- After a data drive the clock is as it was, and `SDO` holds the bit of the slot (R104, R110). -/
theorem lines_after_data {c : Fin 16} (h : plan[m]? = some (n, .data c)) :
    (performAll (plan.take (m + 1)) s).lvlClk = (performAll (plan.take m) s).lvlClk ∧
      (performAll (plan.take (m + 1)) s).lvlSdo = .driven (lv s.out[c]) := by
  rw [performAll_take_succ s h]
  refine ⟨rfl, ?_⟩
  rw [← performAll_out (plan.take m) s]
  rfl

end lastOperation

/-- An operation of the plan stands at its own position (R33). -/
theorem cyclePlan_position_eq {m : Nat} {n : Fin 58} {op : LineOp} (h : cyclePlan[m]? = some (n, op)) : n.val = m := by
  obtain ⟨hm, -⟩ := List.getElem?_eq_some_iff.1 h
  rw [cyclePlan_length] at hm
  obtain ⟨op', h'⟩ := cyclePlan_position ⟨m, hm⟩
  have hpair := Option.some.inj (h.symm.trans h')
  exact congrArg (fun x => x.1.val) hpair

/-- The slot of cell `c` drives the clock low directly before its data (R72, R100). -/
theorem cyclePlan_fall : ∀ c : Fin 16, ∃ m n, m + 1 = dataPosition c ∧ cyclePlan[m]? = some (n, .drive .clk .low) := by
  have h : ∀ c : Fin 16, dataPosition c - 1 + 1 = dataPosition c ∧
      ∃ n, cyclePlan[dataPosition c - 1]? = some (n, .drive .clk .low) := by decide +kernel
  intro c
  obtain ⟨hm, n, hop⟩ := h c
  exact ⟨_, n, hm, hop⟩

/-- The slot of cell `k` drives the clock high directly before its read (R72, R100). -/
theorem cyclePlan_rise : ∀ k : Fin 8, ∃ m n, m + 1 = readPosition k ∧ cyclePlan[m]? = some (n, .drive .clk .high) := by
  have h : ∀ k : Fin 8, ∃ n, cyclePlan[3 + 4 * k.val]? = some (n, .drive .clk .high) := by decide +kernel
  intro k
  obtain ⟨n, hop⟩ := h k
  exact ⟨_, n, by rw [readPosition]; omega, hop⟩

/-- Each cell is sent at its data position only (R103). -/
theorem dataPosition_of_mem : ∀ x ∈ cyclePlan, ∀ c, x.2 = .data c → dataPosition c = x.1.val := by decide +kernel

/-- Each cell is read at its read position only (R103). -/
theorem readPosition_of_mem : ∀ x ∈ cyclePlan, ∀ k, x.2 = .read k → readPosition k = x.1.val := by decide +kernel

/-- The clock rises directly after the data of a slot only (R103, R104). -/
theorem risePosition_of_mem : ∀ x ∈ cyclePlan, x.2 = .drive .clk .high → ∃ c, dataPosition c + 1 = x.1.val := by
  decide +kernel

/-- The clock is low when the plan comes to the data of a slot (R104). -/
theorem lvlClk_at_dataPosition (c : Fin 16) (s : State) :
    (performAll (cyclePlan.take (dataPosition c)) s).lvlClk = .driven .low := by
  obtain ⟨m, n, hm, hop⟩ := cyclePlan_fall c
  rw [← hm]
  exact lvlClk_after_clk s hop

/-- Settles O30: each kind of operation stands where the table puts it, and the operation before it left the lines so. -/
theorem edgeDiscipline : Obligations.EdgeDiscipline := by
  intro s t m n op hop hrun
  obtain rfl := eq_performAll_of_runPlan hrun
  obtain rfl := cyclePlan_position_eq hop
  have hmem := List.mem_of_getElem? hop
  refine ⟨?_, ?_, ?_⟩
  · rintro c rfl
    have hpos := dataPosition_of_mem _ hmem c rfl
    exact ⟨by rw [← hpos]; exact lvlClk_at_dataPosition c s, hpos⟩
  · rintro rfl
    obtain ⟨c, hpos⟩ := risePosition_of_mem _ hmem rfl
    obtain ⟨_, hdata⟩ := cyclePlan_dataPosition c
    obtain ⟨hclk, hsdo⟩ := lines_after_data s hdata
    rw [hpos] at hclk hsdo
    exact ⟨hclk.trans (lvlClk_at_dataPosition c s), c, hpos, hsdo⟩
  · rintro k rfl
    have hpos := readPosition_of_mem _ hmem k rfl
    obtain ⟨m, q, hm, hrise⟩ := cyclePlan_rise k
    obtain hn : n.val = m + 1 := (hm.trans hpos).symm
    refine ⟨by rw [hn]; exact lvlClk_after_clk s hrise, hpos, ?_⟩
    rw [hn, Nat.add_sub_cancel, hrise]
    rfl

end Sys2Proof.Machine
end

section
/-! PROOF. What a command does not depend on: a command other than a getter on the environment (R116), a complete one on
the levels the lines had before it (R100); and that a getter depends on the oracle by its own level (R102). -/

namespace Sys2Proof.Machine

/-- The oracle has gone on by eight levels after a complete cycle (D13). -/
theorem finished_env_oracle {s : State} {levels : List Level} (h : s.env = .oracle levels) :
    (finished s).env = .oracle (levels.drop 8) := by
  rw [finished_env, h, Environment.onLatchLow, afterSampling_oracle]
  rfl

/-- Settles O20: the getter returns the oracle's level of its slot, which is the listed one. -/
theorem oracleLevelsAreSampled : Obligations.OracleLevelsAreSampled := by
  intro k s levels v hs hn henv hv
  obtain ⟨ins, -, h⟩ := exec_success (i := buttonGetter k) ⟨hs.1, .inr hs.2⟩ hn
  refine ⟨_, h, ?_, finished_env_oracle (s := begun (buttonGetter k) s) henv⟩
  have hhead : ∀ free, (levels.drop k).headD free = v := by
    intro free
    rw [List.headD_eq_head?_getD, List.head?_drop, hv]
    rfl
  exact (buttonGetter_res_oracle henv h hn).trans (by rw [hhead]; rfl)

/-- The commands that return a cell are the getters (R182). -/
theorem returned_eq_some {i : Instr} {k : Fin 8} (h : returned i = some k) : i = buttonGetter k := by
  cases i <;> cases h <;> rfl

/-- A command other than a getter answers `Ok` whatever the samples are (R116). -/
theorem resultWith_of_not_getter {i : Instr} (hi : ∀ k, i ≠ buttonGetter k) (ins : Vector Bool 8) : resultWith i ins = .ok := by
  cases h : returned i with
  | none => simp only [resultWith, h]
  | some k => exact absurd (returned_eq_some h) (hi k)

/-- The samples in a record do not move the lines (R31). -/
theorem levelAfter_tokens_samples (plan : List (Fin 58 × LineOp)) (out : Vector Bool 16) (ins ins' : Vector Bool 8)
    (L : Line) (old : LineLevel) : levelAfter L old (plan.map fun x => x.2.token out ins) =
      levelAfter L old (plan.map fun x => x.2.token out ins') := by
  induction plan generalizing old with
  | nil => rfl
  | cons x rest ih =>
    obtain ⟨n, op⟩ := x
    cases op with
    | drive K v => exact ih _
    | data c => exact ih _
    | read k => exact ih _

/-- The samples in a part of a frame do not move the lines (R31). -/
theorem levelAfter_take_frame_samples (n : Nat) (out : Vector Bool 16) (ins ins' : Vector Bool 8) (L : Line)
    (old : LineLevel) : levelAfter L old ((frame out ins).take n) = levelAfter L old ((frame out ins').take n) := by
  rw [← cyclePlan_tokens, ← cyclePlan_tokens, ← List.map_take, ← List.map_take]
  exact levelAfter_tokens_samples ..

/-- Which line a position of a frame drives does not depend on the samples (R103). -/
theorem lineAt_samples (n : Fin 58) (out : Vector Bool 16) (ins ins' : Vector Bool 8) : lineAt n out ins = lineAt n out ins' := by
  obtain ⟨op, hop⟩ := cyclePlan_position n
  rw [← cyclePlan_line hop, ← cyclePlan_line hop]

section samples

variable (s : State) (n : Fin 58) (ins ins' : Vector Bool 8) (cells cells' : Vector (Option Bool) 8)
  (before env env' : Environment)

/-- The samples of a cycle that stopped are in `IN` and in the record only. -/
theorem State.stoppedAt_samples : ∃ trace', (s.setEnv before).stoppedAt n ins' cells' env' =
    { s.stoppedAt n ins cells env with input := cells', env := env', trace := trace' } := by
  refine ⟨s.trace ++ (frame s.out ins').take n ++ [Token.fault (.pos n)], ?_⟩
  simp only [State.stoppedAt, State.setEnv, lineAt_samples n _ ins' ins, levelAfter_take_frame_samples n _ ins' ins]

/-- After a pin fault the samples taken before it are in the record only, whatever environment they came from. -/
theorem afterPinFault_samples (i : Instr) (e : PinError) : ∃ trace',
    afterPinFault i { s with env := before } n e ins' cells' env' =
      { afterPinFault i s n e ins cells env with env := env', trace := trace' } := by
  obtain ⟨trace', h⟩ := (begun i s).stoppedAt_samples n ins ins' cells cells' before env env'
  have hbegun : begun i { s with env := before } = (begun i s).setEnv before := rfl
  refine ⟨trace', ?_⟩
  rw [afterPinFault, hbegun, h, afterPinFault]
  generalize (begun i s).stoppedAt n ins cells env = stopped
  by_cases hi : i = .new
  · subst hi; rfl
  · rw [onFault_of_ne_new hi, onFault_of_ne_new hi]
    rfl

end samples

/-- Settles O19: both environments meet the same pin fault or none, and what is read stays in the record. -/
theorem writersIgnoreSamples : Obligations.WritersIgnoreSamples := by
  intro i s t env hi h
  have ha' : State.Accepts { s with env := env } i := show s.Accepts i from accepts_of_exec h
  obtain ⟨-, ⟨hn, ins, end₁, rfl⟩ | ⟨n, e, ins, cells, end₁, hf, rfl⟩⟩ := exec_next_cases h
  · obtain ⟨ins', env', h'⟩ := exec_completes ha' (show s.NoPinFault from hn)
    refine ⟨env', s.trace ++ frame (written i s.out) ins', h'.trans ?_⟩
    rw [afterSuccess, afterSuccess, resultWith_of_not_getter hi, resultWith_of_not_getter hi]
    rfl
  · obtain ⟨op, hop⟩ := cyclePlan_position n
    obtain ⟨ins', cells', h'⟩ := exec_faulted ha' (show s.FaultAt n e from hf) hop
    obtain ⟨trace', ht⟩ := afterPinFault_samples s n ins ins' cells cells' env end₁ _ i e
    exact ⟨_, trace', h'.trans (congrArg _ ht)⟩

section earlierLevels

variable (s : State) (a b c : LineLevel)

/-- The state with other levels on the output lines. -/
def State.withLines : State := { s with lvlClk := a, lvlLatch := b, lvlSdo := c }

/-- The samples and the environment of a complete cycle do not depend on the levels before it: every line is driven in the
cycle before its level is used (R100, R104). -/
theorem finished_withLines : (finished (s.withLines a b c)).env = (finished s).env ∧
    ∀ k : Fin 8, (finished (s.withLines a b c)).input[k] = (finished s).input[k] := by
  refine ⟨?_, fun k => ?_⟩
  · rw [finished_env, finished_env]
    rfl
  · rw [finished_sample, finished_sample]
    rfl

/-- A command that meets no pin fault answers the same whatever the levels were before. -/
theorem exec_withLines {i : Instr} (ha : s.Accepts i) (hn : s.NoPinFault) : exec i (s.withLines a b c) = exec i s := by
  obtain ⟨ins, hi, h⟩ := exec_success ha hn
  obtain ⟨ins', hi', h'⟩ := exec_success (s := s.withLines a b c) ha hn
  obtain ⟨henv, hinput⟩ := finished_withLines (begun i s) a b c
  have hins : ins' = ins := by
    ext k hk
    exact Option.some.inj ((hi' ⟨k, hk⟩).symm.trans ((hinput ⟨k, hk⟩).trans (hi ⟨k, hk⟩)))
  have hbegun : begun i (s.withLines a b c) = (begun i s).withLines a b c := rfl
  rw [h, h', hins, hbegun, henv]
  rfl

end earlierLevels

/-- Settles O32: an accepted command drives every line before it uses its level, and a refusal does not look at the
lines. -/
theorem earlierLevelsDoNotMatter : Obligations.EarlierLevelsDoNotMatter := by
  intro i s a b c hn
  cases h : exec i s with
  | next t => exact (exec_withLines s a b c (accepts_of_exec h) hn).trans h
  | fault r => cases r
  | refused r => exact exec_eq_refused_iff.2 (exec_eq_refused_iff (s := s).1 h)

end Sys2Proof.Machine
end

section
/-! PROOF. `NEW`: the block it constructs, and what is left when its cycle faults (R140, R141). -/

namespace Sys2Proof.Machine

/-- Sampling slots leave the constant environment as it is (R204). -/
theorem afterSampling_const (out : Vector Bool 16) (v : Level) (slots : List (Fin 8)) :
    afterSampling out (.const v) slots = .const v := by
  induction slots with
  | nil => rfl
  | cons i rest ih => exact ih

/-- With the constant environment attached every sample of a complete cycle is its level (R102, R204). -/
theorem finished_sample_const {s : State} {v : Level} (h : s.env = .const v) (k : Fin 8) :
    (finished s).input[k] = some (bit v) := by
  rw [finished_sample, h, Environment.onLatchLow, afterSampling_const]
  rfl

/-- `NEW` is accepted whatever `INIT` is (R142). -/
theorem State.accepts_new {s : State} (hs : s.seq = .idle) : s.Accepts .new := ⟨hs, .inl rfl⟩

/-- A `NEW` whose cycle faults hands back the pin layer's error and leaves `INIT` false (R141). -/
theorem exec_new_faulted {s : State} {n : Fin 58} {e : PinError} (hs : s.seq = .idle) (hf : s.FaultAt n e) :
    ∃ t, exec .new s = .next t ∧ t.res = .err e ∧ t.init = false := by
  have h := exec_of_accepts (State.accepts_new hs)
  exact ⟨_, h, exec_res_of_faultAt h hf, exec_new_init_of_faultAt h hf⟩

/-- Settles O13: a complete `NEW` ends as every complete command does, with `OUT` cleared before its cycle; a faulted one
leaves no driver. -/
theorem newConstructs : Obligations.NewConstructs := by
  refine ⟨rfl, fun s hs => ⟨fun hn => ?_, fun n e hf => exec_new_faulted hs hf⟩⟩
  obtain ⟨ins, hins, h⟩ := exec_success (State.accepts_new hs) hn
  refine ⟨ins, _, h, fun henv k => ?_⟩
  have hsample := finished_sample_const (s := begun .new s) henv k
  exact Option.some.inj ((hins k).symm.trans hsample)

/-- Settles O14: the faulted `NEW` ends idle with `INIT` false, where `NEW` alone is accepted. -/
theorem failedNewLeavesNoDriver : Obligations.FailedNewLeavesNoDriver := by
  intro s n e hs hf
  obtain ⟨t, h, hres, hinit⟩ := exec_new_faulted hs hf
  have hidle : t.seq = .idle := exec_seq h
  exact ⟨t, h, hres, hinit, fun i hi => exec_of_unconstructed hi hidle hinit,
    _, exec_of_accepts (State.accepts_new hidle)⟩

end Sys2Proof.Machine
end

section
/-! PROOF. The setters `D1` to `D9`: the word, the one cell written, the result (R145 to R154), and the last of several
writes (R156). -/

namespace Sys2Proof

/-- The word of a setter: opcode 1, the index k-1, the state in bit 0 (R77). -/
theorem encode_indicatorSetter_toNat : ∀ (k : Fin 9) (b : Bool),
    (encode (indicatorSetter k b)).toNat = 0x1000 + 0x100 * k.val + b.toNat := by decide

namespace Machine

section setter

variable (k : Fin 9) (b : Bool)

/-- No setter is `NEW`. -/
theorem indicatorSetter_ne_new : indicatorSetter k b ≠ .new := by
  fin_cases k <;> nofun

/-- No setter returns a sample (R145). -/
theorem returned_indicatorSetter : returned (indicatorSetter k b) = none := by
  fin_cases k <;> rfl

/-- A setter writes its own cell and no other (R145, R155). -/
theorem written_indicatorSetter (out : Vector Bool 16) : written (indicatorSetter k b) out = out.set k b := by
  fin_cases k <;> rfl

/-- A complete setter on a Ready block: the state it answers, in full; `INIT` was true before. -/
theorem exec_indicatorSetter_success {s : State} (hs : s.Ready) (hn : s.NoPinFault) :
    ∃ ins env, exec (indicatorSetter k b) s =
      .next { ({ s with out := s.out.set k b }).afterCycle ins env with res := .ok } := by
  obtain ⟨ins, env, h⟩ := exec_completes (i := indicatorSetter k b) ⟨hs.1, .inr hs.2⟩ hn
  refine ⟨ins, env, ?_⟩
  rw [h, afterSuccess, begun, written_indicatorSetter, resultWith, returned_indicatorSetter, ← hs.2]
  rfl

end setter

/-- Settles O15: a complete setter in full, a faulted one as every faulted command other than `NEW`. -/
theorem settersWriteAndCycle : Obligations.SettersWriteAndCycle := by
  intro k b s
  have hi := indicatorSetter_ne_new k b
  refine ⟨encode_indicatorSetter_toNat k b, fun hs hn => ?_, fun hs n e hf => ?_, exec_of_unconstructed hi⟩
  · obtain ⟨ins, env, h⟩ := exec_indicatorSetter_success k b hs hn
    have hcell : (s.out.set k b)[k.val] = b := Vector.getElem_set_self _
    refine ⟨ins, env, h, (frame_dataPosition _ ins ⟨k, by omega⟩).trans ?_⟩
    rw [Fin.getElem_fin, hcell]
  · obtain ⟨t, h, ht, hout⟩ := exec_ready hi hs
    exact ⟨t, h, exec_res_of_faultAt h hf, hout.trans (written_indicatorSetter k b s.out), ht.2⟩

/-- Settles O38: the run of `runCommands_ready`, by induction on the list of commands. -/
theorem lastWriteWins : Obligations.LastWriteWins := fun _ _ hnew hs => runCommands_ready hnew hs

end Machine

end Sys2Proof
end

section
/-! PROOF. `SEG` and the resolver: the word, the seven cells written, the result (R160), and the patterns of the display
variants with the words they expand to (R161, R86). -/

namespace Sys2Proof

/-- Seven bits make a number below 128 (R13). -/
theorem Pattern.number_lt (p : Pattern) : p.number < 128 := by
  unfold Pattern.number
  linarith [Bool.toNat_le p[0], Bool.toNat_le p[1], Bool.toNat_le p[2], Bool.toNat_le p[3], Bool.toNat_le p[4],
    Bool.toNat_le p[5], Bool.toNat_le p[6]]

/-- The word of `SEG`: opcode 2, index 0, bit 7 clear, the pattern in bits 6 to 0 (R77). -/
theorem encode_seg_toNat (p : Pattern) : (encode (.seg p)).toNat = 0x2000 + p.number := by
  have hword := fields_toNat (encode (.seg p))
  rw [(Laws.EncodedFields.seg p).1] at hword
  obtain ⟨hop : 2 = _, hidx : 0 = _, hz : 0 = _, harg : p.number % 128 = _⟩ := hword
  have hlt := p.number_lt
  omega

namespace Machine

/-- A `SEG` on a Ready block whose cycle is complete: the state it answers, in full; `INIT` was true before. -/
theorem exec_seg_success (p : Pattern) {s : State} (hs : s.Ready) (hn : s.NoPinFault) :
    ∃ ins env, exec (.seg p) s =
      .next { ({ s with out := writeSegments s.out p }).afterCycle ins env with res := .ok } := by
  obtain ⟨ins, env, h⟩ := exec_completes (i := .seg p) ⟨hs.1, .inr hs.2⟩ hn
  refine ⟨ins, env, ?_⟩
  rw [h, afterSuccess, ← hs.2]
  rfl

/-- The example `SEG.ONE` after `NEW`: slots 12 and 13 of the frame send high, the others low (R160). -/
theorem frame_segOne (ins : Vector Bool 8) (c : Fin 16) :
    (frame (writeSegments allOff (resolve .one)) ins)[dataPosition c]? =
      some (.drove .sdo (if c = 12 ∨ c = 13 then .high else .low)) := by
  have hlevel : ∀ c : Fin 16, lv (writeSegments allOff (resolve .one))[c] = if c = 12 ∨ c = 13 then .high else .low := by
    decide
  rw [frame_dataPosition, hlevel]

/-- Settles O16: a complete `SEG` in full, with the example's frame by `frame_segOne`; a faulted one as every
faulted command other than `NEW`. -/
theorem segWritesAndCycles : Obligations.SegWritesAndCycles := by
  intro p s
  refine ⟨encode_seg_toNat p, fun hs hn => ?_, fun hs n e hf => ?_, exec_of_unconstructed nofun⟩
  · obtain ⟨ins, env, h⟩ := exec_seg_success p hs hn
    refine ⟨ins, env, h, fun hout hp => ?_⟩
    rw [hout, hp]
    exact ⟨rfl, frame_segOne ins⟩
  · obtain ⟨t, h, ht, hout⟩ := exec_ready (i := .seg p) nofun hs
    exact ⟨t, h, exec_res_of_faultAt h hf, hout, ht.2⟩

/-- Settles O40: the resolver by its three equations; the word of a custom variant is that of its `SEG`, the others are
computed. -/
theorem resolverPatterns : Obligations.ResolverPatterns := by
  refine ⟨rfl, fun _ => rfl, fun _ => rfl, rfl, fun g => ?_, fun q => encode_seg_toNat q⟩
  change encode (.seg #v[false, false, false, false, false, false, false]) = 0x2000
  rfl

end Machine

end Sys2Proof
end

section
/-! PROOF. The getters `S1` to `S8`: the word, `OUT` sent unchanged, the one sample returned (R170 to R182), and with the
buttons of R204 attached the bit of each button. -/

namespace Sys2Proof

/-- The word of a getter: opcode 3, the index k-1, no argument (R77). -/
theorem encode_buttonGetter_toNat : ∀ k : Fin 8, (encode (buttonGetter k)).toNat = 0x3000 + 0x100 * k.val := by decide

namespace Machine

/-- The bit of the level that stands for a bit is that bit (R11). -/
theorem bit_lv (b : Bool) : bit (lv b) = b := by
  cases b <;> rfl

/-- Sampling slots count the buttons read up by one each, whatever they send (R204). -/
theorem afterSampling_buttons (out : Vector Bool 16) (B : Vector Bool 8) (m : Nat) (slots : List (Fin 8)) :
    afterSampling out (.buttons B m) slots = .buttons B (m + slots.length) := by
  induction slots generalizing m with
  | nil => rfl
  | cons i rest ih =>
    refine (ih (m + 1)).trans ?_
    rw [List.length_cons, Nat.add_assoc, Nat.add_comm 1]

/-- With the buttons attached the sample of slot `k` is button `k`: the cycle sets the count of reads to 0, and `k` reads
come before (R102, R204). -/
theorem finished_sample_buttons {s : State} {B : Vector Bool 8} {m : Nat} (h : s.env = .buttons B m) (k : Fin 8) :
    (finished s).input[k] = some B[k] := by
  have hlen : 0 + (([0, 1, 2, 3, 4, 5, 6, 7] : List (Fin 8)).take k).length = k := by
    simp only [List.length_take, List.length_cons, List.length_nil]
    omega
  rw [finished_sample, h, Environment.onLatchLow, afterSampling_buttons, hlen, Environment.onClkRise, Environment.level,
    dif_pos k.isLt, bit_lv, Fin.getElem_fin]

section getter

variable (k : Fin 8)

/-- No getter is `NEW`. -/
theorem buttonGetter_ne_new : buttonGetter k ≠ .new := by
  fin_cases k <;> nofun

/-- A getter writes no cell of `OUT` (R170). -/
theorem written_buttonGetter (out : Vector Bool 16) : written (buttonGetter k) out = out := by
  fin_cases k <;> rfl

/-- The cycle of a getter begins in the state as it is. -/
theorem begun_buttonGetter (s : State) : begun (buttonGetter k) s = s := by
  rw [begun, written_buttonGetter]
  rfl

/-- A complete getter on a Ready block: the state it answers, in full, with the samples of its cycle; `INIT` was true
before. -/
theorem exec_buttonGetter_success {s : State} (hs : s.Ready) (hn : s.NoPinFault) :
    ∃ ins : Vector Bool 8, (∀ j : Fin 8, (finished s).input[j] = some ins[j]) ∧
      exec (buttonGetter k) s = .next { s.afterCycle ins (finished s).env with res := .okBit ins[k] } := by
  have h := exec_success (i := buttonGetter k) ⟨hs.1, .inr hs.2⟩ hn
  rw [begun_buttonGetter] at h
  obtain ⟨ins, hins, h⟩ := h
  refine ⟨ins, hins, ?_⟩
  rw [h, resultWith, returned_buttonGetter, ← hs.2]
  rfl

end getter

/-- Settles O17: a complete getter in full, its samples those of the buttons where they are attached; a faulted one as
every faulted command other than `NEW`. -/
theorem gettersReturnTheirSample : Obligations.GettersReturnTheirSample := by
  intro k s
  have hi := buttonGetter_ne_new k
  refine ⟨encode_buttonGetter_toNat k, fun hs hn => ?_, fun hs n e hf => ?_, exec_of_unconstructed hi⟩
  · obtain ⟨ins, hins, h⟩ := exec_buttonGetter_success k hs hn
    refine ⟨ins, _, h, frame_readPosition s.out ins k, fun B m henv => ?_⟩
    ext j hj
    exact Option.some.inj ((hins ⟨j, hj⟩).symm.trans (finished_sample_buttons henv ⟨j, hj⟩))
  · obtain ⟨t, h, ht, hout⟩ := exec_ready hi hs
    exact ⟨t, h, exec_res_of_faultAt h hf, hout.trans (written_buttonGetter k s.out), ht.2⟩

end Machine

end Sys2Proof
end

section
/-! PROOF. What a command leaves unchanged, faulted or not (R191, R35), that a block is ready again after a fault (R192),
and a loss of power (R197). -/

namespace Sys2Proof.Machine

section afterPinFault

variable (i : Instr) (s : State) (n : Fin 58) (e : PinError) (ins : Vector Bool 8) (cells : Vector (Option Bool) 8)
  (env : Environment)

/-- What a command does after the exception touches neither the host's words nor the pin layer's answers. -/
theorem onFault_host_pins (t : State) : (onFault i t).host = t.host ∧ (onFault i t).pins = t.pins := by
  by_cases hi : i = .new
  · subst hi
    exact ⟨rfl, rfl⟩
  · rw [onFault_of_ne_new hi]
    exact ⟨rfl, rfl⟩

@[simp] theorem afterPinFault_host : (afterPinFault i s n e ins cells env).host = s.host :=
  (onFault_host_pins i _).1
@[simp] theorem afterPinFault_pins : (afterPinFault i s n e ins cells env).pins = s.pins.drop (n + 1) :=
  (onFault_host_pins i _).2

end afterPinFault

/-- A command leaves the host's words as they are and keeps no sample, and it appends to the record one token per line
operation attempted, of which there is at least one and at most 58 (R28, R71, R191). -/
theorem exec_record {i : Instr} {s t : State} (h : exec i s = .next t) :
    t.host = s.host ∧ t.input = noSamples ∧ ∃ toks, t.trace = s.trace ++ toks ∧ t.ops = s.ops + toks.length ∧
      t.pins = s.pins.drop toks.length ∧ 1 ≤ toks.length ∧ toks.length ≤ 58 := by
  obtain ⟨-, ⟨-, ins, env, rfl⟩ | ⟨n, e, ins, cells, env, -, rfl⟩⟩ := exec_next_cases h
  · have hlen := frame_length (written i s.out) ins
    refine ⟨rfl, rfl, frame (written i s.out) ins, rfl, ?_⟩
    rw [hlen]
    exact ⟨rfl, rfl, by omega, le_rfl⟩
  · have hn := n.isLt
    have hlen : ((frame (written i s.out) ins).take n ++ [Token.fault (.pos n)]).length = n + 1 := by
      rw [List.length_append, List.length_take, frame_length, List.length_singleton]
      omega
    refine ⟨by simp, by simp, (frame (written i s.out) ins).take n ++ [Token.fault (.pos n)], by simp, ?_⟩
    rw [hlen]
    exact ⟨afterPinFault_ops .., afterPinFault_pins .., by omega, by omega⟩

/-- Settles O18: the record by `exec_record`, `INIT` and `OUT` by the rules for every command but `NEW`. -/
theorem commandFrame : Obligations.CommandFrame := by
  intro i s t h
  obtain ⟨hhost, hinput, toks, htrace, hops, hpins, hmin, hmax⟩ := exec_record h
  have hcount : t.ops - s.ops = toks.length := by omega
  refine ⟨hhost, hinput, exec_seq h, fun hi => ⟨exec_init_of_ne_new hi h, fun c => ?_⟩, by omega, by omega,
    by rw [hcount, hpins], toks, htrace, hcount.symm⟩
  rw [exec_out_of_ne_new hi h, written_cell]

/-- Settles O36: the faulted command leaves a Ready block, and a complete one sends the frame of what `OUT` then holds. -/
theorem faultLeavesBlockUsable : Obligations.FaultLeavesBlockUsable := by
  intro i s n e hi hs _
  obtain ⟨t, h, ht, hout⟩ := exec_ready hi hs
  refine ⟨t, h, ht, fun c => by rw [hout, written_cell], fun j hn => ?_⟩
  obtain ⟨ins, env, hu⟩ := exec_completes (i := j) ⟨ht.1, .inr ht.2⟩ hn
  exact ⟨ins, _, hu, rfl, afterSuccess_trace .., written_cell j t.out⟩

/-- Settles O43: the power-on values field by field, and with `INIT` false only `NEW` is accepted. -/
theorem powerLossUnconstructs : Obligations.PowerLossUnconstructs := fun s =>
  ⟨rfl, rfl, rfl, rfl, fun L => by cases L <;> rfl, fun _ hi => exec_of_unconstructed hi rfl rfl,
    _, exec_of_accepts (s := powerCycle s) (State.accepts_new rfl)⟩

end Sys2Proof.Machine
end

section
/-! PROOF. Taking the exception (R188): the entry at any position, and the lines position by position (R190). -/

namespace Sys2Proof.Machine

/-- The line that position `m` of the cycle drives, if it drives one (R103). -/
def lineOf (m : Nat) : Option Line := cyclePlan[m]?.bind fun x => x.2.line

/-- Which line a position of a frame drives is what the plan says. -/
theorem lineAt_eq_lineOf (n : Fin 58) (out : Vector Bool 16) (ins : Vector Bool 8) : lineAt n out ins = lineOf n := by
  obtain ⟨op, hop⟩ := cyclePlan_position n
  rw [lineOf, hop, ← cyclePlan_line hop]
  rfl

/-- A position at which a frame has the token of a drive drives that line. -/
theorem lineOf_of_drove {m : Nat} {out : Vector Bool 16} {ins : Vector Bool 8} {L : Line} {v : Level}
    (h : (frame out ins)[m]? = some (.drove L v)) : lineOf m = some L := by
  rw [← cyclePlan_tokens, List.getElem?_map] at h
  obtain ⟨x, hx, htoken⟩ := Option.map_eq_some_iff.1 h
  rw [lineOf, hx]
  exact LineOp.line_of_token htoken

/-- A position of a frame drives the line that the frame's token there names. -/
theorem lineAt_eq_some_iff {n : Fin 58} {out : Vector Bool 16} {ins : Vector Bool 8} {L : Line} :
    lineAt n out ins = some L ↔ ∃ v, (frame out ins)[n.val]? = some (.drove L v) := by
  obtain ⟨op, hop⟩ := cyclePlan_position n
  rw [← cyclePlan_line hop, frame_getElem_of_plan hop]
  cases op <;> simp [LineOp.line, LineOp.token]

/-- An accepted command whose cycle faults first at `n` ends in the state after that fault. -/
theorem exec_faults {i : Instr} {s : State} {n : Fin 58} {e : PinError} (ha : s.Accepts i) (hf : s.FaultAt n e) :
    ∃ ins cells env, exec i s = .next (afterPinFault i s n e ins cells env) := by
  obtain ⟨op, hop⟩ := cyclePlan_position n
  obtain ⟨ins, cells, h⟩ := exec_faulted ha hf hop
  exact ⟨ins, cells, _, h⟩

/-- Settles O34: the state after the fault, with the `OUT` and the samples of its cycle. -/
theorem pinFaultEntry : Obligations.PinFaultEntry := by
  intro i s n e ha hf
  obtain ⟨ins, cells, env, h⟩ := exec_faults ha hf
  refine ⟨written i s.out, ins, _, h, written_cell i s.out, afterPinFault_trace .., afterPinFault_ops ..,
    afterPinFault_pins .., afterPinFault_input .., afterPinFault_seq .., afterPinFault_res .., afterPinFault_host ..,
    ?_, fun hi => (afterPinFault_of_ne_new s n e ins cells env hi).symm, fun L => ⟨fun v hv => ?_, fun hv => ?_⟩⟩
  · rintro rfl
    exact afterPinFault_new_init ..
  · rw [afterPinFault_lvl, if_pos (lineAt_eq_some_iff.2 ⟨v, hv⟩)]
  · rw [afterPinFault_lvl, if_neg fun hL => (lineAt_eq_some_iff.1 hL).elim hv]

section lines

variable {i : Instr} {s : State} {n : Fin 58} {e : PinError} {ins : Vector Bool 8} {cells : Vector (Option Bool) 8}
  {env : Environment} {L : Line}

/-- The tokens of a frame from one position up to another drive a line only if the plan does between them. -/
theorem not_drove_of_lineOf {out : Vector Bool 16} {m k : Nat} (h : ∀ j, m ≤ j → j < k → lineOf j ≠ some L) (v : Level) :
    Token.drove L v ∉ ((frame out ins).take k).drop m := by
  intro hmem
  obtain ⟨j, hj⟩ := List.mem_iff_getElem?.1 hmem
  rw [List.getElem?_drop, List.getElem?_take] at hj
  split at hj
  case isFalse => cases hj
  case isTrue hlt => exact h (m + j) (by omega) hlt (lineOf_of_drove hj)

/-- A line whose drive failed is unspecified (R190, D9). -/
theorem afterPinFault_unspecified (h : lineOf n = some L) :
    ((afterPinFault i s n e ins cells env).lvl L).isUnspecified = true := by
  rw [afterPinFault_lvl, lineAt_eq_lineOf, if_pos h]
  rfl

/-- A line that the cycle has not come to drive is as it was before the command (R190). -/
theorem afterPinFault_undriven (h : ∀ j, j ≤ n.val → lineOf j ≠ some L) :
    (afterPinFault i s n e ins cells env).lvl L = s.lvl L := by
  rw [afterPinFault_lvl, lineAt_eq_lineOf, if_neg (h n le_rfl)]
  exact levelAfter_of_not_drove _ (not_drove_of_lineOf (m := 0) fun j _ hj => h j hj.le)

/-- A line register over a trace in two parts. -/
theorem levelAfter_append (L : Line) (old : LineLevel) (xs ys : List Token) :
    levelAfter L old (xs ++ ys) = levelAfter L (levelAfter L old xs) ys := by
  induction xs generalizing old with
  | nil => rfl
  | cons k rest ih => rw [List.cons_append, levelAfter_cons, ih, ← levelAfter_cons]

/-- A line driven last at position `m` is at the level it was driven to there (R190). -/
theorem afterPinFault_driven {m : Nat} {v : Level} (hm : (frame (written i s.out) ins)[m]? = some (.drove L v))
    (hlt : m < n.val) (h : ∀ j, m < j → j ≤ n.val → lineOf j ≠ some L) :
    (afterPinFault i s n e ins cells env).lvl L = .driven v := by
  have hsplit : (frame (written i s.out) ins).take n =
      (frame (written i s.out) ins).take m ++ .drove L v :: ((frame (written i s.out) ins).take n).drop (m + 1) := by
    obtain ⟨hlen, hget⟩ := List.getElem?_eq_some_iff.1 hm
    have htake : m < ((frame (written i s.out) ins).take n).length := by
      rw [List.length_take]
      omega
    rw [← hget, ← List.getElem_take (i := m) (j := n.val) (h := htake), ← List.drop_eq_getElem_cons htake]
    conv_lhs => rw [← List.take_append_drop m ((frame (written i s.out) ins).take n), List.take_take, min_eq_left hlt.le]
  rw [afterPinFault_lvl, lineAt_eq_lineOf, if_neg (h n hlt le_rfl), hsplit, levelAfter_append, levelAfter, if_pos rfl]
  exact levelAfter_of_not_drove _ (not_drove_of_lineOf fun j hj hjn => h j hj hjn.le)

/-- A line that the operation directly before drove is at the level it was driven to (R190). -/
theorem afterPinFault_just_driven {m : Nat} {v : Level} (hm : (frame (written i s.out) ins)[m]? = some (.drove L v))
    (hn : n.val = m + 1) (h : lineOf n ≠ some L) : (afterPinFault i s n e ins cells env).lvl L = .driven v := by
  refine afterPinFault_driven hm (by omega) fun j hj hjn => ?_
  obtain rfl : j = n.val := by omega
  exact h

end lines

/-- `LATCH` is driven at the first position and at the last (R103, R107). -/
theorem lineOf_latch_iff : ∀ m < 58, lineOf m = some .latch ↔ m = 0 ∨ m = 57 := by decide +kernel

/-- `CLK` is driven directly before and directly after the data of each slot (R103). -/
theorem lineOf_clk_iff : ∀ m < 58, lineOf m = some .clk ↔ ∃ c : Fin 16, m = dataPosition c - 1 ∨ m = dataPosition c + 1 := by
  decide +kernel

/-- `SDO` is driven at the data position of each slot (R103). -/
theorem lineOf_sdo_iff : ∀ m < 58, lineOf m = some .sdo ↔ ∃ c : Fin 16, m = dataPosition c := by decide +kernel

/-- A read drives no line (R102). -/
theorem lineOf_readPosition (k : Fin 8) : lineOf (readPosition k) = none := by
  obtain ⟨m, h⟩ := cyclePlan_readPosition k
  rw [lineOf, h]
  rfl

/-- Slots come in ascending order (R53). -/
theorem dataPosition_le {c j : Fin 16} (h : c ≤ j) : dataPosition c ≤ dataPosition j := by
  unfold dataPosition
  split <;> split <;> omega

/-- The first data drive is at position 2 (R103). -/
theorem two_le_dataPosition (c : Fin 16) : 2 ≤ dataPosition c := dataPosition_le (Fin.zero_le c)

/-- Before its last position a frame has all sixteen rises of `CLK` (R105). -/
theorem edges_clk_take_frame (out : Vector Bool 16) (ins : Vector Bool 8) (t : Token) (ht : drivesOf .clk [t] = [])
    (now : Level) : edges .clk .low .high now ((frame out ins).take 57 ++ [t]) = 16 := by
  have hdrives : drivesOf .clk ((frame out ins).take 57) = (List.replicate 16 [Level.low, Level.high]).flatten := by
    rw [← cyclePlan_tokens, ← List.map_take, drivesOf_tokens (by decide)]
    decide +kernel
  rw [edges_eq_transitions, drivesOf_append, hdrives, ht]
  cases now <;> decide

/-- Settles O35: each line by the last position up to `n` that drives it, which the tables of the three lines name. -/
theorem linesAfterFault : Obligations.LinesAfterFault := by
  intro i s n e ha hf
  obtain ⟨ins, cells, env, h⟩ := exec_faults ha hf
  have hlt := n.isLt
  have hdata : ∀ j : Fin 16, n.val = dataPosition j → lineOf n = some .sdo := fun j hj =>
    (lineOf_sdo_iff n hlt).2 ⟨j, hj⟩
  have hlatch : n.val = 0 ∨ n.val = 57 → lineOf n = some .latch := (lineOf_latch_iff n hlt).2
  have hfirst : cyclePlan[0]? = some (0, .drive .latch .low) := rfl
  have hlast : cyclePlan[56]? = some (56, .drive .clk .high) := by decide
  refine ⟨_, h, fun hn => ?_, fun hn => ?_, fun j hn => ?_, fun hn => ?_, fun j hn => ?_, fun k hn => ?_, fun hn => ?_,
    fun j hn => ?_, fun hn => ?_, fun j hj hnext => ?_, fun hn => ?_, fun hn => ?_⟩
  · refine afterPinFault_driven (frame_getElem_of_plan hfirst _ _) hn.1 fun j hj hjn hline => ?_
    have := (lineOf_latch_iff j (by omega)).1 hline
    omega
  · exact afterPinFault_unspecified (hlatch hn)
  · exact afterPinFault_unspecified ((lineOf_clk_iff n hlt).2 ⟨j, hn⟩)
  · refine afterPinFault_undriven (L := .clk) fun j hj => ?_
    obtain rfl : j = 0 := by omega
    decide
  · obtain ⟨m, q, hm, hop⟩ := cyclePlan_fall j
    exact afterPinFault_just_driven (frame_getElem_of_plan hop _ _) (hn.trans hm.symm) (by simp [hdata j hn])
  · obtain ⟨m, q, hm, hop⟩ := cyclePlan_rise k
    exact afterPinFault_just_driven (frame_getElem_of_plan hop _ _) (hn.trans hm.symm)
      (by simp [hn, lineOf_readPosition])
  · exact afterPinFault_just_driven (frame_getElem_of_plan hlast _ _) hn (by simp [hlatch (.inr hn)])
  · exact afterPinFault_unspecified (hdata j hn)
  · refine afterPinFault_undriven (L := .sdo) fun j hj hline => ?_
    obtain ⟨c, hc⟩ := (lineOf_sdo_iff j (by omega)).1 hline
    have := two_le_dataPosition c
    omega
  · rw [← written_cell]
    refine afterPinFault_driven (frame_dataPosition _ _ j) hj fun m hm hmn hline => ?_
    obtain ⟨c, rfl⟩ := (lineOf_sdo_iff m (by omega)).1 hline
    rcases le_or_gt c j with hcj | hjc
    · exact absurd (dataPosition_le hcj) (by omega)
    · exact absurd (hnext c hjc) (by omega)
  · obtain rfl : n = 0 := Fin.ext hn
    rw [afterPinFault_trace, Fin.val_zero, List.take_zero, List.append_nil]
  · obtain rfl : n = 57 := Fin.ext hn
    refine ⟨_, (afterPinFault_trace ..).trans (List.append_assoc ..), edges_clk_take_frame _ ins _ rfl⟩

end Sys2Proof.Machine
end

section
/-! PROOF. The block never inspects an error (R187): the operations of a cycle hand the pin layer's later answers on, and the
entry of the exception puts the error in `RES` only. -/

namespace Sys2Proof.Machine

/-- The state with other answers of the pin layer to come. -/
def State.withPins (s : State) (pins : List PinAnswer) : State := { s with pins := pins }

/-- A line operation that succeeds uses up one answer and looks at no other. -/
theorem performed_withPins (op : LineOp) (s : State) (pins : List PinAnswer) :
    performed op (s.withPins pins) = (performed op s).withPins pins.tail := by
  cases op <;> rfl

/-- A line operation that fails uses up one answer and looks at no other. -/
theorem performFailed_withPins (op : LineOp) (s : State) (pins : List PinAnswer) :
    performFailed op (s.withPins pins) = (performFailed op s).withPins pins.tail := by
  cases op <;> rfl

/-- Successful line operations use up one answer each and look at no other. -/
theorem performAll_withPins (plan : List (Fin 58 × LineOp)) (s : State) (pins : List PinAnswer) :
    performAll plan (s.withPins pins) = (performAll plan s).withPins (pins.drop plan.length) := by
  induction plan generalizing s pins with
  | nil => rfl
  | cons x rest ih =>
    obtain ⟨n, op⟩ := x
    have hop : performed op ((s.withPins pins).setSeq (.pos n)) = (performed op (s.setSeq (.pos n))).withPins pins.tail :=
      performed_withPins op (s.setSeq (.pos n)) pins
    rw [performAll, hop, ih, List.drop_tail]
    rfl

/-- The state in which the operation at `n` of a cycle over `s` has failed, all operations before it successful. -/
def failedAt (op : LineOp) (s : State) (n : Fin 58) : State := performFailed op (attempting s n)

/-- A cycle that faults first at `n` stops in that state (R115, R189). -/
theorem cycle_failedAt {s : State} {n : Fin 58} {e : PinError} {op : LineOp} (hop : cyclePlan[n.val]? = some (n, op))
    (hf : s.FaultAt n e) : cycle s = .failed e (failedAt op s n) := by
  have hrun := runPlan_fault cyclePlan (s := s.setInput noSamples) n.val hop hf.1 hf.2
  rw [cycle, hrun]
  rfl

/-- Other answers up to the failed operation, and the same ones after it, lead to the same state. -/
theorem failedAt_withPins (op : LineOp) (s : State) (n : Fin 58) {pins : List PinAnswer}
    (h : pins.drop (n + 1) = s.pins.drop (n + 1)) : failedAt op (s.withPins pins) n = failedAt op s n := by
  have hlen : (cyclePlan.take n.val).length = n := by simp
  have hattempting : attempting (s.withPins pins) n = (attempting s n).withPins (pins.drop n) := by
    have hall := performAll_withPins (cyclePlan.take n) (s.setInput noSamples) pins
    rw [hlen] at hall
    exact congrArg (State.setSeq · (.pos n)) hall
  have hpins : (failedAt op s n).pins = pins.drop (n + 1) := by simp [failedAt, performFailed, attempting, h]
  rw [failedAt, hattempting, performFailed_withPins, List.tail_drop, ← hpins]
  rfl

/-- A command whose cycle faults, in terms of the state in which the operation has failed. -/
theorem exec_failedAt {i : Instr} {s : State} {n : Fin 58} {e : PinError} {op : LineOp} (ha : s.Accepts i)
    (hf : s.FaultAt n e) (hop : cyclePlan[n.val]? = some (n, op)) :
    exec i s = .next (onFault i (raisePinFault e (failedAt op (begun i s) n))) := by
  have hcycle : cycle (begun i s) = .failed e (failedAt op (begun i s) n) := cycle_failedAt hop hf
  rw [exec_of_accepts ha, ← begun, hcycle]
  rfl

/-- The error that is handed back is the only trace of it (R187). -/
theorem onFault_raisePinFault_err (i : Instr) (e e' : PinError) (t : State) :
    onFault i (raisePinFault e' t) = { onFault i (raisePinFault e t) with res := .err e' } := by
  by_cases hi : i = .new
  · subst hi
    rfl
  · rw [onFault_of_ne_new hi, onFault_of_ne_new hi]
    rfl

/-- Another error in the list of answers at the place of the first fault is the first fault there. -/
theorem State.FaultAt.set_err {s : State} {n : Fin 58} {e : PinError} (hf : s.FaultAt n e) (hn : n.val < s.pins.length)
    (e' : PinError) : (s.withPins (s.pins.set n (.err e'))).FaultAt n e' := by
  refine ⟨fun k hk => (?_ : _ = s.answerAt k).trans (hf.1 k hk), ?_⟩
  · simp only [State.answerAt, State.withPins, List.getElem?_set_ne hk.ne']
  · simp only [State.answerAt, State.withPins, List.getElem?_set_self hn, Option.getD_some]

/-- Settles O37: both commands stop in the same state, and the error goes to `RES`. -/
theorem errorIsNeverInspected : Obligations.ErrorIsNeverInspected := by
  intro i s t n e e' hf hn h
  obtain ⟨op, hop⟩ := cyclePlan_position n
  have ha := accepts_of_exec h
  have ha' : (s.withPins (s.pins.set n (.err e'))).Accepts i := ha
  have hrest : (s.pins.set n (.err e')).drop (n + 1) = s.pins.drop (n + 1) := List.drop_set_of_lt (Nat.lt_succ_self n)
  have hsame := failedAt_withPins op (begun i s) n hrest
  obtain rfl := Host.Outcome.next.inj (h.symm.trans (exec_failedAt ha hf hop))
  rw [← onFault_raisePinFault_err, ← hsame]
  exact exec_failedAt ha' (hf.set_err hn e') hop

end Sys2Proof.Machine
end

section
/-! PROOF. The reference environments of R204: the constant one leaves every sample alike, and the stages of the other two
after a cycle hold the bits that were sent last, the newest first. -/

namespace Sys2Proof.Machine

/-- Plain slots leave the constant environment as it is (R204). -/
theorem afterPlain_const (out : Vector Bool 16) (v : Level) (slots : List (Fin 8)) :
    afterPlain out (.const v) slots = .const v := by
  induction slots with
  | nil => rfl
  | cons j rest ih => exact ih

/-- A complete cycle leaves the constant environment as it is (R204). -/
theorem finished_env_const {s : State} {v : Level} (h : s.env = .const v) : (finished s).env = .const v := by
  rw [finished_env, h, Environment.onLatchLow, afterSampling_const, afterPlain_const]
  rfl

/-- Settles O51: the sample that a complete getter returns is the bit of the constant level. -/
theorem constantEnvironmentIsSampled : Obligations.ConstantEnvironmentIsSampled := by
  intro k s v hs hn henv
  obtain ⟨ins, hins, h⟩ := exec_buttonGetter_success k hs hn
  have hbit : ins[k] = bit v := Option.some.inj ((hins k).symm.trans (finished_sample_const henv k))
  exact ⟨_, h, congrArg Res.okBit hbit, finished_env_const (s := s) henv⟩

/-! ### Stages -/

/-- The stages after bits have been shifted in, the first bit of the list first (R204). -/
def shiftIn (bits st : List Bool) : List Bool := bits.foldl (fun st b => shiftStages b st) st

/-- Shifting puts the bit before the stages and drops the last of them (R204). -/
theorem shiftStages_eq_take (b : Bool) (st : List Bool) : shiftStages b st = (b :: st).take st.length := by
  cases st with
  | nil => rfl
  | cons x rest => rw [shiftStages, List.dropLast_eq_take, List.length_cons, List.take_succ_cons, Nat.add_sub_cancel]

/-- Shifting bits in puts them before the stages, the newest first, and keeps as many as there are stages (R204). -/
theorem shiftIn_eq_take (bits st : List Bool) : shiftIn bits st = (bits.reverse ++ st).take st.length := by
  induction bits generalizing st with
  | nil => exact List.take_length.symm
  | cons b rest ih =>
    have hlen : ((b :: st).take st.length).length = st.length := by simp
    rw [shiftIn, List.foldl_cons, ← shiftIn, shiftStages_eq_take, ih, hlen, List.reverse_cons, List.append_assoc,
      List.singleton_append, List.take_append, List.take_append, List.take_take, Nat.min_eq_left (Nat.sub_le ..)]

/-- The last stage after as many bits as there are stages, or more, is one of the bits (R204). -/
theorem getLast?_shiftIn_of_le {bits st : List Bool} (h : st.length ≤ bits.length) :
    (shiftIn bits st).getLast? = bits[bits.length - st.length]? := by
  rw [shiftIn_eq_take, List.take_append_of_le_length (by rwa [List.length_reverse]), List.take_reverse,
    List.getLast?_reverse, List.head?_drop]

/-- The last stage after fewer bits than there are stages is one of the stages of before (R204). -/
theorem getLast?_shiftIn_of_lt {bits st : List Bool} (h : bits.length < st.length) :
    (shiftIn bits st).getLast? = st[st.length - 1 - bits.length]? := by
  have hlen : (bits.reverse ++ st.take (st.length - bits.length)).length = st.length := by
    rw [List.length_append, List.length_reverse, List.length_take]
    omega
  rw [shiftIn_eq_take, List.take_append, List.take_of_length_le (by rw [List.length_reverse]; omega),
    List.length_reverse, List.getLast?_eq_getElem?, hlen, List.getElem?_append_right (by rw [List.length_reverse]; omega),
    List.length_reverse, List.getElem?_take_of_lt (by omega)]

/-- `ENV-LOOP` after sampling slots holds the bits they sent (R204). -/
theorem afterSampling_loop (out : Vector Bool 16) (st : List Bool) (slots : List (Fin 8)) :
    afterSampling out (.loop st) slots = .loop (shiftIn (slots.map fun i => out[i.val]) st) := by
  induction slots generalizing st with
  | nil => rfl
  | cons i rest ih =>
    have hslot : (((Environment.loop st).onClkRise (lv out[i.val])).afterRead) = .loop (shiftStages out[i.val] st) := by
      rw [Environment.onClkRise, bit_lv, Environment.afterRead]
    rw [afterSampling, List.foldl_cons, hslot]
    exact ih _

/-- The first `k` slots send the first `k` cells of `OUT` (R53). -/
theorem bitsSent_eq_take (out : Vector Bool 16) (k : Fin 8) :
    ((([0, 1, 2, 3, 4, 5, 6, 7] : List (Fin 8)).take k).map fun i => out[i.val]) = out.toList.take k := by
  have hslots : ([0, 1, 2, 3, 4, 5, 6, 7] : List (Fin 8)) = List.finRange 8 := by decide
  rw [hslots]
  apply List.ext_getElem
  · simp
    omega
  · simp

/-- With `ENV-LOOP` attached the sample of slot `k` is the last of the stages once the bits of the slots up to `k` are in,
or the bit of slot `k` itself where there is no stage (R102, R204). -/
theorem finished_sample_loop {s : State} {st : List Bool} (h : s.env = .loop st) (k : Fin 8) :
    (finished s).input[k] = some ((shiftIn (s.out.toList.take (k + 1)) st).getLast?.getD s.out[k.val]) := by
  have hsent : s.out.toList.take (k + 1) = s.out.toList.take k ++ [s.out[k.val]] := by
    rw [List.take_succ_eq_append_getElem (by simp; omega), Vector.getElem_toList]
  have hstages : shiftStages s.out[k.val] (shiftIn (s.out.toList.take k) st) = shiftIn (s.out.toList.take (k + 1)) st := by
    rw [hsent, shiftIn, shiftIn, List.foldl_append]
    rfl
  have hbit : ∀ (last : Option Bool) (b : Bool), bit (last.elim (lv b) lv) = last.getD b := by
    rintro (_ | x) b
    · exact bit_lv b
    · exact bit_lv x
  rw [finished_sample, h, Environment.onLatchLow, afterSampling_loop, bitsSent_eq_take, Environment.onClkRise, bit_lv,
    Environment.level, hstages, hbit]

/-- Settles O50: the last stage is the bit shifted in as many slots earlier as there are stages, less one, if there were so
many slots; otherwise it is a stage of before, moved on. -/
theorem loopbackReturnsSentBits : Obligations.LoopbackReturnsSentBits := by
  intro k s st hs hn henv
  obtain ⟨ins, hins, h⟩ := exec_buttonGetter_success k hs hn
  have hsample := Option.some.inj ((hins k).symm.trans (finished_sample_loop henv k))
  have hlen : (s.out.toList.take (k + 1)).length = k + 1 := by
    rw [List.length_take, Vector.length_toList]
    omega
  refine ⟨_, ins[k], h, rfl, ?_, fun h1 hk => ?_, fun hk => ?_⟩
  · rintro rfl
    rw [hsample, shiftIn_eq_take]
    rfl
  · rw [hsample, getLast?_shiftIn_of_le (by omega), hlen, List.getElem?_take_of_lt (by omega), Vector.getElem?_toList,
      Vector.getElem?_eq_getElem (by omega)]
    rfl
  · have hindex : st.length - 1 - (k.val + 1) = st.length - 2 - k.val := by omega
    rw [hsample, getLast?_shiftIn_of_lt (by omega), hlen, hindex, List.getElem?_eq_getElem (by omega)]
    rfl

/-! ### The chain -/

/-- The stages of `ENV-CHAIN16` after bits have been shifted in, the first bit of the list first (R204). -/
def shiftInChain (bits : List Bool) (sr : Vector Bool 16) : Vector Bool 16 := bits.foldl (fun sr b => shiftChain b sr) sr

/-- The chain shifts as any stages do (R204). -/
theorem shiftChain_toList (b : Bool) (sr : Vector Bool 16) : (shiftChain b sr).toList = shiftStages b sr.toList := by
  rw [shiftStages_eq_take]
  apply List.ext_getElem
  · simp
  · intro m hm _
    have : m < 16 := by simpa using hm
    interval_cases m <;> simp [shiftChain]

/-- Bits shifted into the chain are before what it held, the newest first (R204). -/
theorem shiftInChain_toList (bits : List Bool) (sr : Vector Bool 16) :
    (shiftInChain bits sr).toList = shiftIn bits sr.toList := by
  induction bits generalizing sr with
  | nil => rfl
  | cons b rest ih =>
    refine (ih _).trans ?_
    rw [shiftChain_toList]
    rfl

/-- `ENV-CHAIN16` after sampling slots holds the bits they sent, and its outputs are as they were (R204). -/
theorem afterSampling_chain16 (out sr par : Vector Bool 16) (slots : List (Fin 8)) :
    afterSampling out (.chain16 sr par) slots = .chain16 (shiftInChain (slots.map fun i => out[i.val]) sr) par := by
  induction slots generalizing sr with
  | nil => rfl
  | cons i rest ih =>
    have hslot : (((Environment.chain16 sr par).onClkRise (lv out[i.val])).afterRead) =
        .chain16 (shiftChain out[i.val] sr) par := by
      rw [Environment.onClkRise, bit_lv, Environment.afterRead]
    rw [afterSampling, List.foldl_cons, hslot]
    exact ih _

/-- `ENV-CHAIN16` after plain slots holds the bits they sent, and its outputs are as they were (R204). -/
theorem afterPlain_chain16 (out sr par : Vector Bool 16) (slots : List (Fin 8)) :
    afterPlain out (.chain16 sr par) slots = .chain16 (shiftInChain (slots.map fun j => out[8 + j.val]) sr) par := by
  induction slots generalizing sr with
  | nil => rfl
  | cons j rest ih =>
    have hslot : (Environment.chain16 sr par).onClkRise (lv out[8 + j.val]) =
        .chain16 (shiftChain out[8 + j.val] sr) par := by
      rw [Environment.onClkRise, bit_lv]
    rw [afterPlain, List.foldl_cons, hslot]
    exact ih _

/-- Sixteen bits shifted in fill the chain, the last of them in the first stage (R204). -/
theorem shiftInChain_out (out sr : Vector Bool 16) : shiftInChain out.toList sr = out.reverse := by
  apply Vector.toList_inj.1
  rw [shiftInChain_toList, shiftIn_eq_take, List.take_append_of_le_length (by simp), Vector.toList_reverse,
    List.take_of_length_le (by simp)]

/-- The sampling slots and the plain ones together send `OUT` in ascending order (R53). -/
theorem bitsSent_eq_toList (out : Vector Bool 16) : ([0, 1, 2, 3, 4, 5, 6, 7] : List (Fin 8)).map (fun i => out[i.val]) ++
    ([0, 1, 2, 3, 4, 5, 6, 7] : List (Fin 8)).map (fun j => out[8 + j.val]) = out.toList := by
  rw [← map_finRange_getElem]
  rfl

/-- When the epilogue of a cycle is attempted `ENV-CHAIN16` has shifted all of `OUT` in and committed nothing of it
(R108, R204). -/
theorem attempting_epilogue_chain16 {s : State} {sr par : Vector Bool 16} (h : s.env = .chain16 sr par) :
    (attempting s 57).env = .chain16 s.out.reverse par := by
  rw [(attempting_epilogue s).2, h, Environment.onLatchLow, afterSampling_chain16, afterPlain_chain16,
    ← shiftInChain_out s.out sr, ← bitsSent_eq_toList, shiftInChain, shiftInChain, shiftInChain, List.foldl_append]

/-- After a complete cycle the stages and the outputs of `ENV-CHAIN16` are `OUT` reversed (R204). -/
theorem finished_env_chain16 {s : State} {sr par : Vector Bool 16} (h : s.env = .chain16 sr par) :
    (finished s).env = .chain16 s.out.reverse s.out.reverse := by
  rw [finished_env, ← (attempting_epilogue s).2, attempting_epilogue_chain16 h, Environment.onLatchRise]

/-- Settles O48: the complete cycle of the command sends the `OUT` that it leaves. -/
theorem chainHoldsOutReversed : Obligations.ChainHoldsOutReversed := by
  intro i s sr par ha hn henv
  obtain ⟨ins, -, h⟩ := exec_success ha hn
  exact ⟨_, _, h, finished_env_chain16 (s := begun i s) henv, fun m => Vector.getElem_reverse ..⟩

end Sys2Proof.Machine
end

section
/-! PROOF. What is refused before any line operation: a command during a cycle (R225) and a launch with aliased pins (R214). -/

namespace Sys2Proof.Machine

/-- Settles O12: every command checks `SEQ` before it runs. -/
theorem refusedDuringCycle : Obligations.RefusedDuringCycle := fun i _ _ h => exec_of_busy i h

/-- Four pins are distinct when the six pairs of them are (R214). -/
theorem pins_nodup_iff (clk latch sdo sdi : Nat) : [clk, latch, sdo, sdi].Nodup ↔
    clk ≠ latch ∧ clk ≠ sdo ∧ clk ≠ sdi ∧ latch ≠ sdo ∧ latch ≠ sdi ∧ sdo ≠ sdi := by
  simp [and_assoc]

/-- Settles O44: the launch's check of its list of pins is the check of the six pairs. -/
theorem launchNeedsDistinctPins : Obligations.LaunchNeedsDistinctPins := by
  intro clk latch sdo sdi
  have hpins := pins_nodup_iff clk latch sdo sdi
  refine ⟨fun h => if_pos (hpins.2 h), fun h => if_neg fun hnodup => ?_⟩
  have hdistinct := hpins.1 hnodup
  omega

end Sys2Proof.Machine
end

section
/-! PROOF. The attached chain after a pin fault (R223): only the rise of `LATCH` at position 57, done or in doubt, reaches the
outputs of `ENV-CHAIN16`. -/

namespace Sys2Proof.Machine

/-- The plan drives `LATCH` high at its last position only (R107). -/
theorem latchRise_position_of_mem : ∀ x ∈ cyclePlan, x.2 = .drive .latch .high → x.1.val = 57 := by decide

/-- No operation of the plan before position 57 drives `LATCH` high (R107). -/
theorem ne_latchRise_of_lt {m : Nat} {n : Fin 58} {op : LineOp} (hop : cyclePlan[m]? = some (n, op)) (hm : m < 57) :
    op ≠ .drive .latch .high := by
  intro hrise
  have hn := latchRise_position_of_mem _ (List.mem_of_getElem? hop) hrise
  rw [cyclePlan_position_eq hop] at hn
  omega

/-- The operation at position 57 is the drive of `LATCH` to high (R103). -/
theorem cyclePlan_epilogue : cyclePlan[(57 : Fin 58).val]? = some (57, .drive .latch .high) := by decide

section outputs

variable {s : State} {sr par : Vector Bool 16}

/-- No successful operation but the rise of `LATCH` changes the outputs of `ENV-CHAIN16` (R204). -/
theorem performed_env_chain16 {op : LineOp} (hop : op ≠ .drive .latch .high) (h : s.env = .chain16 sr par) :
    ∃ sr', (performed op s).env = .chain16 sr' par := by
  cases op with
  | drive L v =>
    rw [performed, envNow, h]
    cases L with
    | clk => cases v <;> cases (s.lvl .clk).level .clk <;> exact ⟨_, rfl⟩
    | latch =>
      cases v with
      | low => exact ⟨sr, rfl⟩
      | high => exact absurd rfl hop
    | sdo => exact ⟨sr, rfl⟩
  | data i => exact ⟨sr, h⟩
  | read i => exact ⟨sr, congrArg Environment.afterRead h⟩

/-- Successful operations without a rise of `LATCH` leave the outputs of `ENV-CHAIN16` as they are (R204). -/
theorem performAll_env_chain16 {plan : List (Fin 58 × LineOp)} (hplan : ∀ x ∈ plan, x.2 ≠ .drive .latch .high)
    (h : s.env = .chain16 sr par) : ∃ sr', (performAll plan s).env = .chain16 sr' par := by
  induction plan generalizing s sr with
  | nil => exact ⟨sr, h⟩
  | cons x rest ih =>
    obtain ⟨n, op⟩ := x
    obtain ⟨hop, hrest⟩ := List.forall_mem_cons.1 hplan
    obtain ⟨sr', h'⟩ := performed_env_chain16 (s := s.setSeq (.pos n)) hop h
    exact ih hrest h'

/-- Until the epilogue is performed the outputs of `ENV-CHAIN16` show what they showed before the cycle (R223). -/
theorem attempting_env_chain16 (n : Fin 58) (h : s.env = .chain16 sr par) :
    ∃ sr', (attempting s n).env = .chain16 sr' par := by
  refine performAll_env_chain16 (s := s.setInput noSamples) (fun x hx => ?_) h
  obtain ⟨m, hm, rfl⟩ := List.mem_take_iff_getElem.1 hx
  exact ne_latchRise_of_lt (List.getElem?_eq_getElem _) (by omega)

/-- An operation that fails is no edge for the environment unless it is the rise of `LATCH` (R15, R190). -/
theorem envFailed_of_ne_latchRise {op : LineOp} (hop : op ≠ .drive .latch .high) (s : State) : envFailed op s = s.env := by
  cases op with
  | drive L v =>
    cases L with
    | clk => rfl
    | latch =>
      cases v with
      | low => rfl
      | high => exact absurd rfl hop
    | sdo => rfl
  | data i => rfl
  | read i => rfl

/-- A failed rise of `LATCH` from low commits the stages of `ENV-CHAIN16` to its outputs, or does not (R190, R223). -/
theorem envFailed_latchRise_chain16 (hl : s.lvlLatch = .driven .low) (h : s.env = .chain16 sr par) :
    ∃ par', envFailed (.drive .latch .high) s = .chain16 sr par' ∧ (par' = par ∨ par' = sr) := by
  have hfailed : envFailed (.drive .latch .high) s =
      if Config.failedCommit s.ops then .chain16 sr sr else .chain16 sr par := by
    rw [envFailed, State.lvl_latch, hl, h]
    rfl
  rw [hfailed]
  split
  · exact ⟨sr, rfl, .inr rfl⟩
  · exact ⟨par, rfl, .inl rfl⟩

/-- `ENV-CHAIN16` after a cycle over `s` that faults first at `n` (R223). -/
theorem failedAt_env_chain16 {op : LineOp} {n : Fin 58} (hop : cyclePlan[n.val]? = some (n, op))
    (h : s.env = .chain16 sr par) : ∃ sr' par', (failedAt op s n).env = .chain16 sr' par' ∧ (n.val < 57 → par' = par) ∧
      (n.val = 57 → (par' = par ∨ par' = sr') ∧ sr' = s.out.reverse) := by
  by_cases hn : n.val < 57
  · obtain ⟨sr', h'⟩ := attempting_env_chain16 n h
    exact ⟨sr', par, (envFailed_of_ne_latchRise (ne_latchRise_of_lt hop hn) _).trans h', fun _ => rfl, fun hc => by omega⟩
  · obtain rfl : n = 57 := Fin.ext (by omega)
    obtain rfl : .drive .latch .high = op := congrArg Prod.snd (Option.some.inj (cyclePlan_epilogue.symm.trans hop))
    obtain ⟨par', h', hpar⟩ := envFailed_latchRise_chain16 (attempting_epilogue s).1 (attempting_epilogue_chain16 h)
    exact ⟨s.out.reverse, par', h', fun hc => absurd hc hn, fun _ => ⟨hpar, rfl⟩⟩

end outputs

/-- Taking the exception leaves the environment as it is, for `NEW` too (R188). -/
theorem onFault_raisePinFault_env (i : Instr) (e : PinError) (t : State) : (onFault i (raisePinFault e t)).env = t.env := by
  by_cases hi : i = .new
  · subst hi
    rfl
  · rw [onFault_of_ne_new hi]
    rfl

/-- Settles O49: the command stops in the state of its failed operation, and a later success finds a chain attached. -/
theorem faultLeavesChainOutputs : Obligations.FaultLeavesChainOutputs := by
  intro i s n e sr par ha hf henv
  obtain ⟨op, hop⟩ := cyclePlan_position n
  obtain ⟨sr', par', h, hbefore, hcommit⟩ := failedAt_env_chain16 (s := begun i s) hop henv
  have ht := (onFault_raisePinFault_env i e _).trans h
  refine ⟨_, sr', par', exec_failedAt ha hf hop, ht, hbefore, fun hn => ?_,
    fun j hj hok => chainHoldsOutReversed j _ sr' par' hj hok ht⟩
  obtain ⟨hpar, hsr⟩ := hcommit hn
  refine ⟨hpar, fun m => ?_⟩
  have hcell : sr'[m] = (written i s.out)[15 - m.val] := by
    rw [hsr]
    exact Vector.getElem_reverse ..
  exact hcell.trans (written_cell i s.out ⟨15 - m.val, by omega⟩)

end Sys2Proof.Machine
end
